-- ==== Sys2Proof/Word.lean ====
section
/-! DEFINITION. The word types of the BFX bit-field extractor: every register is 32 bits wide (10_state.md),
a storage byte has 8 bits and the result registers together hold 128 bits (R35). -/

namespace Sys2Proof

/-- A register, a command word or an operand: 32 bits. -/
abbrev Word := BitVec 32

/-- A byte of storage RAM. -/
abbrev Byte := BitVec 8

/-- The 128-bit result RES = RES3 ++ RES2 ++ RES1 ++ RES0 (R35). -/
abbrev Result := BitVec 128

end Sys2Proof
end

