-- ==== Sys2Proof/Config.lean ====
section
/-! DEFINITION. What an implementation fixes (00_scope.md R6) and the values the spec leaves open. The open values
are opaque: nothing in Lean can evaluate them, so what is proved holds for every value of them. -/

namespace Sys2Proof

/-- The implementation parameters of R6. They are fixed for a build (R45); State carries them unchanged (log 1). -/
structure Params where
  /-- CAP_BYTES: bytes of storage in each buffer, 1 to 2^24 (R6, D6). -/
  capBytes : Nat
  /-- NATIVE_LE: true when `ne` means little-endian (R6, D7). -/
  nativeLe : Bool
  /-- BASE: bus address of the aperture, a multiple of 2^26 (R6, D3). -/
  base : Nat
deriving DecidableEq, Repr

/-- CAP_BYTES less one: OPEN between 0 and 2^24 - 1 (R6). -/
opaque Config.capBytesLessOne : Fin 16777216

/-- NATIVE_LE: OPEN (R6). -/
opaque Config.nativeLe : Bool

/-- BASE divided by 2^26: OPEN (R6). -/
opaque Config.baseIndex : Nat

/-- The parameters of this build: any legal ones. -/
def Config.params : Params :=
  { capBytes := Config.capBytesLessOne.val + 1
    nativeLe := Config.nativeLe
    base := 67108864 * Config.baseIndex }

/-- FREE VALUE (R38, R46, I1; log 4). What byte `index` of buffer `buf`'s storage RAM holds after power-on number
`powerOn`, until something writes it. -/
opaque Config.powerOnByte (powerOn buf index : Nat) : BitVec 8

/-- FREE VALUE (R41, I3; log 5). What entry `code` of LUT `slot` holds after power-on number `powerOn`, until an
FMT_BUILD writes it. -/
opaque Config.powerOnLutWord (powerOn slot code : Nat) : BitVec 32

/-- FREE VALUE (R248, I4; log 6). Byte `lane` of window read number `draw` made while a ZEROS of that buffer is
pending. -/
opaque Config.busyReadByte (draw lane : Nat) : BitVec 8

end Sys2Proof
end

