-- ==== Sys2Proof/Syntax.lean ====
section
/-! DEFINITION. The commands of the block: one constructor per row of spec/opcode_table.json (R87). A command's
operands are in ARG0 to ARG2 (R85, R92); a constructor carries only the fields its row takes. -/

namespace Sys2Proof

/-- The B field (R91): which of the two bit buffers ZEROS or LOAD constructs. -/
inductive BufSel where
  | buf0
  | buf1
deriving DecidableEq, Repr

/-- The L field (R111): how a command's position operands count. -/
inductive Numbering where
  /-- L = 0: position 0 is the first bit. -/
  | msb0
  /-- L = 1: position 0 is the last bit. -/
  | lsb0
deriving DecidableEq, Repr

/-- The END field of READ_UINT and READ_INT (R89). -/
inductive Endian where
  | be
  | le
  | ne
deriving DecidableEq, Repr

/-- The SLOT field (R90): one of the four format slots. -/
abbrev Slot := Fin 4

/-- The instructions: the rows of R87. -/
inductive Instr where
  | nop
  | zeros (b : BufSel)
  | load (b : BufSel)
  | getBit (l : Numbering)
  | getByteRange (l : Numbering)
  | extract (l : Numbering) (padAtEnd : Bool)
  | readUintBe (l : Numbering)
  | readUintLe (l : Numbering)
  | readUintNe (l : Numbering)
  | readIntBe (l : Numbering)
  | readIntLe (l : Numbering)
  | readIntNe (l : Numbering)
  | fmtBuild (slot : Slot)
  | nfDecode (l : Numbering) (slot : Slot)
  | nfLookup (slot : Slot)
  | find (byteAligned : Bool)
  | rfind (byteAligned : Bool)
  | findallFirst (byteAligned : Bool)
  | findallNext
deriving DecidableEq, Repr

end Sys2Proof
end

