-- ==== Sys2Proof/WellFormed.lean ====
section
/-! DEFINITION. What the spec calls well formed: a legal command word (R88, R94) and legal implementation parameters
(R6). A value of `Instr` cannot be ill-formed: each of its fields has exactly the values its bits admit, so the checks
stand on the word. They are written from the prose of R88 and R94, apart from the decoding procedure of R96 (Decode.lean). -/

namespace Sys2Proof

/-- The OP values of the table of R87. -/
def wordLegalOps : List Nat :=
  [0x00, 0x01, 0x02, 0x08, 0x09, 0x0A, 0x10, 0x11, 0x20, 0x21, 0x22, 0x30, 0x31, 0x32, 0x33]

/-- The bits of a word that its OP's "fields it takes" column of R87 lets differ from 0, OP itself aside. -/
def wordTakenBits (op : Nat) : Word :=
  if op = 0x01 ∨ op = 0x02 then 0x100#32
  else if op = 0x08 ∨ op = 0x09 then 0x200#32
  else if op = 0x0A then 0xA00#32
  else if op = 0x10 ∨ op = 0x11 then 0x3200#32
  else if op = 0x20 ∨ op = 0x22 then 0xC000#32
  else if op = 0x21 then 0xC200#32
  else if op = 0x30 ∨ op = 0x31 ∨ op = 0x32 then 0x400#32
  else 0#32

/-- R94 (a): OP is in the table of R87. -/
def wordOpKnown (w : Word) : Bool := wordLegalOps.contains (w &&& 0xFF#32).toNat

/-- R94 (b): bits 31:16 are all 0. -/
def wordHighZero (w : Word) : Bool := w &&& 0xFFFF0000#32 == 0#32

/-- R94 (c), R88: every field that OP does not take is 0. -/
def wordFieldsZero (w : Word) : Bool :=
  w &&& 0xFF00#32 &&& ~~~(wordTakenBits (w &&& 0xFF#32).toNat) == 0#32

/-- R94 (d), R89: READ_UINT and READ_INT do not have END = 3. -/
def wordEndLegal (w : Word) : Bool :=
  !((w &&& 0xFE#32 == 0x10#32) && (w &&& 0x3000#32 == 0x3000#32))

/-- A legal command word: none of the cases of R94 holds. -/
def wordLegal (w : Word) : Bool :=
  wordOpKnown w && wordHighZero w && wordFieldsZero w && wordEndLegal w

/-- Legal parameters (R6): 1 ≤ CAP_BYTES ≤ 2^24, BASE a multiple of 2^26. -/
def Params.wf (p : Params) : Bool :=
  decide (1 ≤ p.capBytes) && decide (p.capBytes ≤ 16777216) && decide (p.base % 67108864 = 0)

end Sys2Proof
end

