-- ==== Sys2Proof/Decode.lean ====
section
/-! DEFINITION. The decoding procedure of R96, total on any 32-bit word and rejecting by name, and the encoder of the
same tables (R86, R87). -/

namespace Sys2Proof

/-- The OP values of R87; READ_UINT and READ_INT are three mnemonics each, told apart by END. -/
inductive Opcode where
  | nop | zeros | load | getBit | getByteRange | extract | readUint | readInt
  | fmtBuild | nfDecode | nfLookup | find | rfind | findallFirst | findallNext
deriving DecidableEq, Repr

/-- The fields of a command word beside OP (R86). -/
inductive FieldName where
  | B | L | BA | P | END | SLOT
deriving DecidableEq, Repr

/-- Why a word is illegal, one reason per clause of R94. -/
inductive DecodeError where
  /-- (a) OP is not in the table of R87. -/
  | reservedOp
  /-- (b) bits 31:16 are not all 0. -/
  | reservedBits
  /-- (c) a field that OP does not take is not 0. -/
  | untakenField
  /-- (d) END = 3 in READ_UINT or READ_INT. -/
  | reservedEnd
deriving DecidableEq, Repr

/-- Bits 7:0 (R86). -/
def opField (w : Word) : BitVec 8 := w.extractLsb' 0 8
/-- Bit 8 (R86). -/
def bField (w : Word) : BitVec 1 := w.extractLsb' 8 1
/-- Bit 9 (R86). -/
def lField (w : Word) : BitVec 1 := w.extractLsb' 9 1
/-- Bit 10 (R86). -/
def baField (w : Word) : BitVec 1 := w.extractLsb' 10 1
/-- Bit 11 (R86). -/
def pField (w : Word) : BitVec 1 := w.extractLsb' 11 1
/-- Bits 13:12 (R86). -/
def endField (w : Word) : BitVec 2 := w.extractLsb' 12 2
/-- Bits 15:14 (R86). -/
def slotField (w : Word) : BitVec 2 := w.extractLsb' 14 2
/-- Bits 31:16, reserved (R86). -/
def reservedField (w : Word) : BitVec 16 := w.extractLsb' 16 16

/-- The value of a field, as a number. -/
def fieldValue (w : Word) : FieldName → Nat
  | .B => (bField w).toNat
  | .L => (lField w).toNat
  | .BA => (baField w).toNat
  | .P => (pField w).toNat
  | .END => (endField w).toNat
  | .SLOT => (slotField w).toNat

/-- The operation an OP value names (R87). -/
def opcodeOf (op : BitVec 8) : Option Opcode :=
  match op.toNat with
  | 0x00 => some .nop
  | 0x01 => some .zeros
  | 0x02 => some .load
  | 0x08 => some .getBit
  | 0x09 => some .getByteRange
  | 0x0A => some .extract
  | 0x10 => some .readUint
  | 0x11 => some .readInt
  | 0x20 => some .fmtBuild
  | 0x21 => some .nfDecode
  | 0x22 => some .nfLookup
  | 0x30 => some .find
  | 0x31 => some .rfind
  | 0x32 => some .findallFirst
  | 0x33 => some .findallNext
  | _ => none

/-- The OP value of an operation (R87). -/
def opByte : Opcode → BitVec 8
  | .nop => 0x00#8
  | .zeros => 0x01#8
  | .load => 0x02#8
  | .getBit => 0x08#8
  | .getByteRange => 0x09#8
  | .extract => 0x0A#8
  | .readUint => 0x10#8
  | .readInt => 0x11#8
  | .fmtBuild => 0x20#8
  | .nfDecode => 0x21#8
  | .nfLookup => 0x22#8
  | .find => 0x30#8
  | .rfind => 0x31#8
  | .findallFirst => 0x32#8
  | .findallNext => 0x33#8

/-- The "fields it takes" column of R87. -/
def fieldsTaken : Opcode → List FieldName
  | .nop => []
  | .zeros => [.B]
  | .load => [.B]
  | .getBit => [.L]
  | .getByteRange => [.L]
  | .extract => [.L, .P]
  | .readUint => [.L, .END]
  | .readInt => [.L, .END]
  | .fmtBuild => [.SLOT]
  | .nfDecode => [.L, .SLOT]
  | .nfLookup => [.SLOT]
  | .find => [.BA]
  | .rfind => [.BA]
  | .findallFirst => [.BA]
  | .findallNext => []

/-- Every field beside OP, in the order of R96. -/
def allFields : List FieldName := [.B, .L, .BA, .P, .END, .SLOT]

/-- Some field that the operation does not take is not 0 (R88). -/
def hasUntakenField (op : Opcode) (w : Word) : Bool :=
  allFields.any fun f => !(fieldsTaken op).contains f && fieldValue w f != 0

/-- The buffer B selects (R91). -/
def bufSelOf (b : BitVec 1) : BufSel := if b = 0#1 then .buf0 else .buf1

/-- The numbering L selects (R111). -/
def numberingOf (l : BitVec 1) : Numbering := if l = 0#1 then .msb0 else .lsb0

/-- A one-bit flag field. -/
def flagOf (b : BitVec 1) : Bool := b == 1#1

/-- The byte order END selects; 3 is reserved (R89). -/
def endianOf (e : BitVec 2) : Option Endian :=
  match e.toNat with
  | 0 => some .be
  | 1 => some .le
  | 2 => some .ne
  | _ => none

/-- The instruction of (OP, END) with the word's fields: the last line of R96. -/
def instrOf (op : Opcode) (w : Word) : Option Instr :=
  match op with
  | .nop => some .nop
  | .zeros => some (.zeros (bufSelOf (bField w)))
  | .load => some (.load (bufSelOf (bField w)))
  | .getBit => some (.getBit (numberingOf (lField w)))
  | .getByteRange => some (.getByteRange (numberingOf (lField w)))
  | .extract => some (.extract (numberingOf (lField w)) (flagOf (pField w)))
  | .readUint =>
    match endianOf (endField w) with
    | some .be => some (.readUintBe (numberingOf (lField w)))
    | some .le => some (.readUintLe (numberingOf (lField w)))
    | some .ne => some (.readUintNe (numberingOf (lField w)))
    | none => none
  | .readInt =>
    match endianOf (endField w) with
    | some .be => some (.readIntBe (numberingOf (lField w)))
    | some .le => some (.readIntLe (numberingOf (lField w)))
    | some .ne => some (.readIntNe (numberingOf (lField w)))
    | none => none
  | .fmtBuild => some (.fmtBuild (slotField w).toFin)
  | .nfDecode => some (.nfDecode (numberingOf (lField w)) (slotField w).toFin)
  | .nfLookup => some (.nfLookup (slotField w).toFin)
  | .find => some (.find (flagOf (baField w)))
  | .rfind => some (.rfind (flagOf (baField w)))
  | .findallFirst => some (.findallFirst (flagOf (baField w)))
  | .findallNext => some .findallNext

/-- The decoding procedure of R96, its checks in that order. A word it rejects is illegal (R94). -/
def decode (w : Word) : Except DecodeError Instr :=
  match opcodeOf (opField w) with
  | none => .error .reservedOp
  | some op =>
    if reservedField w ≠ 0#16 then .error .reservedBits
    else if hasUntakenField op w then .error .untakenField
    else
      match instrOf op w with
      | none => .error .reservedEnd
      | some i => .ok i

/-- The instruction read from a word numbered as spec/opcode_table.json numbers its bits; bits above `nbits` are 0. A
command word is one 32-bit register write (R85), so its bits are the word's. -/
def decodeTableWord (nbits w : Nat) : Option Instr :=
  match decode (BitVec.ofNat 32 (w % 2 ^ nbits)) with
  | .ok i => some i
  | .error _ => none

/-- A command word assembled from its fields (R86), bits 31:16 zero. -/
def assemble (op : Opcode) (b l ba p : BitVec 1) (en slot : BitVec 2) : Word :=
  0#16 ++ slot ++ en ++ p ++ ba ++ l ++ b ++ opByte op

/-- The B bit of a buffer. -/
def bufSelBit : BufSel → BitVec 1
  | .buf0 => 0#1
  | .buf1 => 1#1

/-- The L bit of a numbering. -/
def numberingBit : Numbering → BitVec 1
  | .msb0 => 0#1
  | .lsb0 => 1#1

/-- The bit of a flag. -/
def flagBit (b : Bool) : BitVec 1 := if b then 1#1 else 0#1

/-- The SLOT bits of a slot. -/
def slotBits (n : Slot) : BitVec 2 := BitVec.ofFin n

/-- The command word of an instruction (R86, R87): the fields it does not take are 0 (R88). -/
def encode : Instr → Word
  | .nop => assemble .nop 0 0 0 0 0 0
  | .zeros b => assemble .zeros (bufSelBit b) 0 0 0 0 0
  | .load b => assemble .load (bufSelBit b) 0 0 0 0 0
  | .getBit l => assemble .getBit 0 (numberingBit l) 0 0 0 0
  | .getByteRange l => assemble .getByteRange 0 (numberingBit l) 0 0 0 0
  | .extract l p => assemble .extract 0 (numberingBit l) 0 (flagBit p) 0 0
  | .readUintBe l => assemble .readUint 0 (numberingBit l) 0 0 0 0
  | .readUintLe l => assemble .readUint 0 (numberingBit l) 0 0 1 0
  | .readUintNe l => assemble .readUint 0 (numberingBit l) 0 0 2 0
  | .readIntBe l => assemble .readInt 0 (numberingBit l) 0 0 0 0
  | .readIntLe l => assemble .readInt 0 (numberingBit l) 0 0 1 0
  | .readIntNe l => assemble .readInt 0 (numberingBit l) 0 0 2 0
  | .fmtBuild n => assemble .fmtBuild 0 0 0 0 0 (slotBits n)
  | .nfDecode l n => assemble .nfDecode 0 (numberingBit l) 0 0 0 (slotBits n)
  | .nfLookup n => assemble .nfLookup 0 0 0 0 0 (slotBits n)
  | .find ba => assemble .find 0 0 (flagBit ba) 0 0 0
  | .rfind ba => assemble .rfind 0 0 (flagBit ba) 0 0 0
  | .findallFirst ba => assemble .findallFirst 0 0 (flagBit ba) 0 0 0
  | .findallNext => assemble .findallNext 0 0 0 0 0 0

end Sys2Proof
end

