-- ==== Sys2Proof/Machine/State.lean ====
section
/-! DEFINITION. The state of the BFX block as plain data: everything 10_state.md names, the parameters of R6, and the
model's own fields (the free-value counters, the bus answers and the inputs still to come). -/

namespace Sys2Proof.Machine

/-- One storage RAM (R38): byte index and byte, indices strictly rising. An index is listed exactly when something has
written it since power-on; an unlisted index holds no stored value, and a read of it takes the power-on's free byte
(log 4). So no listed entry can equal what an unlisted index reads as. -/
abbrev Memory := List Host.Cell

/-- The written entries of one lookup table (R41): code and binary32 word, codes strictly rising. -/
abbrev LutTable := List (Nat × Word)

/-- The three registers of a bit buffer (R36). BUFb_OFFSET holds bits 2:0; 31:3 read 0. -/
structure Buffer where
  /-- BUFb_OFFSET: leading storage bits before logical bit 0. -/
  offset : BitVec 3
  /-- BUFb_BITLEN: number of logical bits. -/
  bitLen : Word
  /-- BUFb_NBYTES: storage bytes that belong to the buffer. -/
  nBytes : Word
deriving DecidableEq, Repr

/-- The widths of a host access: 1, 2 or 4 bytes (R64). -/
inductive Width where
  | byte
  | half
  | word
deriving DecidableEq, Repr

/-- One host bus access (R64), at a bus address (R60: BASE + a). A write takes the low bytes of its value. -/
inductive HostAccess where
  | read (addr : Nat) (w : Width)
  | write (addr : Nat) (w : Width) (v : Word)
deriving DecidableEq, Repr

/-- What one turn of the outside world is (R74, R235; log 2). -/
inductive Input where
  /-- The host performs its next bus access. -/
  | access (a : HostAccess)
  /-- No access: the engine performs its completion step if a command is pending. -/
  | engineTurn
  /-- The platform asserts power-on reset. -/
  | powerOn
deriving DecidableEq, Repr

/-- What the bus answers the host for one access. -/
inductive Response where
  /-- The value a read returns, zero-extended to 32 bits. -/
  | data (v : Word)
  /-- A write the bus accepted, whether or not the block acts on it (log 12). -/
  | done
  /-- The access was rejected (R68). -/
  | busError
deriving DecidableEq, Repr

/-- Why the machine stops. -/
inductive Fault where
  /-- Raised by a host access whose bus address is not in the block's aperture [BASE, BASE + 2^26) (R60, R70): no such
  address exists in this machine (log 10). Safe: the model stops where the platform goes on. -/
  | outsideAperture
deriving DecidableEq, Repr

/-- What the model gives no meaning. -/
inductive Refusal where
  /-- Raised by exec for an instruction without a meaning; no arm does so. Safe: the model stops. -/
  | notModelled (mnemonic : String)
deriving DecidableEq, Repr

/-- The state of the block. -/
structure State where
  /-- The build's parameters (R6); no step changes them (log 1). -/
  params : Params
  /-- STATUS.BUSY (R26). -/
  busy : Bool
  /-- STATUS.ERR (R27). -/
  err : Bool
  /-- STATUS.FOUND (R28). -/
  found : Bool
  /-- STATUS.OVR (R29). -/
  ovr : Bool
  /-- STATUS.FMT_VALID, bit n for slot n (R30). -/
  fmtValid : BitVec 4
  /-- STATUS.ERRCODE (R27, R210). -/
  errCode : BitVec 4
  /-- STATUS.LASTOP (R31). -/
  lastOp : BitVec 8
  /-- CMD (R33). -/
  cmd : Word
  /-- ARG0 (R34). -/
  arg0 : Word
  /-- ARG1 (R34). -/
  arg1 : Word
  /-- ARG2 (R34). -/
  arg2 : Word
  /-- RES3 ++ RES2 ++ RES1 ++ RES0 (R35). -/
  res : Result
  /-- BUF0_OFFSET, BUF0_BITLEN, BUF0_NBYTES (R36). -/
  buf0 : Buffer
  /-- BUF1_OFFSET, BUF1_BITLEN, BUF1_NBYTES (R36). -/
  buf1 : Buffer
  /-- Storage RAM of buffer 0 (R38). -/
  ram0 : Memory
  /-- Storage RAM of buffer 1 (R38). -/
  ram1 : Memory
  /-- FA_NEXT (R39). -/
  faNext : Word
  /-- FA_END (R39). -/
  faEnd : Word
  /-- FA_CTL.BA (R39). -/
  faBa : Bool
  /-- FA_CTL.ACTIVE (R39). -/
  faActive : Bool
  /-- FMT0 to FMT3, bits 15:0 each (R40). -/
  fmt : Vector (BitVec 16) 4
  /-- LUT[0] to LUT[3] (R41). -/
  lut : Vector LutTable 4
  /-- PEND_CMD (R33, R44). -/
  pendCmd : Word
  /-- PEND_ARG0 (R33, R44). -/
  pendArg0 : Word
  /-- PEND_ARG1 (R33, R44). -/
  pendArg1 : Word
  /-- PEND_ARG2 (R33, R44). -/
  pendArg2 : Word
  /-- The model's own: which power-on drew the RAM contents (log 4, log 5). -/
  powerOns : Nat
  /-- The model's own: number of the next unspecified window read (log 6). -/
  draws : Nat
  /-- The model's own: the host agent's fault, recorded at a bus error and never cleared (R68; log 9). -/
  hostFault : Bool
  /-- The model's own: what the bus answered, newest first (log 12). -/
  responses : List Response
  /-- The model's own: the turns to come, next one first (log 2). -/
  inputs : List Input
deriving DecidableEq, Repr

/-- The canonical empty buffer (R14, R37). -/
def Buffer.empty : Buffer := { offset := 0#3, bitLen := 0#32, nBytes := 0#32 }

/-- The machine after power-on reset (R46, R236). PEND_* and the model's own fields are DESIGN CHOICE (log 7, log 8). -/
def State.reset : State where
  params := Config.params
  busy := false
  err := false
  found := false
  ovr := false
  fmtValid := 0#4
  errCode := 0#4
  lastOp := 0#8
  cmd := 0#32
  arg0 := 0#32
  arg1 := 0#32
  arg2 := 0#32
  res := 0#128
  buf0 := Buffer.empty
  buf1 := Buffer.empty
  ram0 := []
  ram1 := []
  faNext := 0#32
  faEnd := 0#32
  faBa := false
  faActive := false
  fmt := #v[0#16, 0#16, 0#16, 0#16]
  lut := #v[[], [], [], []]
  pendCmd := 0#32
  pendArg0 := 0#32
  pendArg1 := 0#32
  pendArg2 := 0#32
  powerOns := 0
  draws := 0
  hostFault := false
  responses := []
  inputs := []

end Sys2Proof.Machine
end

