-- ==== Sys2Proof/Machine/Ops.lean ====
section
/-! DEFINITION. The named operations over storage, tables, registers and results: the storage and command primitives of
R10 and R11, error completion (R214) and success completion (R215), the two resets (R236, R237), and the arithmetic of
R9 and R12. -/

namespace Sys2Proof.Machine

/-! ### Integers of a width (R9, R12) -/

/-- `zext_128` (R9). -/
def zext128 (v : Nat) : Result := BitVec.ofNat 128 v

/-- `sext_128` (R9). -/
def sext128 (v : Int) : Result := BitVec.ofInt 128 v

/-- The signed value s(u, L) of an L-bit pattern u (R12). -/
def signedValue (u l : Nat) : Int := if 2 ^ (l - 1) ≤ u then (u : Int) - 2 ^ l else u

/-- `ceil(a / 8)` (R9). -/
def ceilDiv8 (a : Nat) : Nat := (a + 7) / 8

/-- Four result registers as one result (R35). -/
def packRes (r3 r2 r1 r0 : Word) : Result := r3 ++ r2 ++ r1 ++ r0

/-! ### Storage RAM and tables as sparse lists -/

/-- The byte stored at an index; none where nothing has been written since power-on. -/
def memGet : Memory → Nat → Option Byte
  | [], _ => none
  | (k, v) :: m, a => if k = a then some v else memGet m a

/-- Store a byte, keeping the indices strictly rising. -/
def memPut : Memory → Nat → Byte → Memory
  | [], a, v => [(a, v)]
  | (k, w) :: m, a, v =>
    if a < k then (a, v) :: (k, w) :: m
    else if k = a then (a, v) :: m
    else (k, w) :: memPut m a v

/-- Every index of a memory is above `a` where there is one, and indices rise strictly. -/
def memRisingFrom : Option Nat → Memory → Bool
  | _, [] => true
  | none, (k, _) :: m => memRisingFrom (some k) m
  | some a, (k, _) :: m => decide (a < k) && memRisingFrom (some k) m

/-- The canonical form of a storage RAM: indices strictly rising. An unlisted index reads as no stored value, which no
listed byte equals. -/
def Memory.wf (m : Memory) : Bool := memRisingFrom none m

/-- Every listed index is one of the CAP_BYTES bytes of the RAM (R38). -/
def Memory.within (cap : Nat) (m : Memory) : Bool := m.all fun c => decide (c.1 < cap)

/-- Store zeros at indices 0 to n - 1. -/
def memZero (m : Memory) : Nat → Memory
  | 0 => m
  | n + 1 => memPut (memZero m n) n 0#8

/-- The written table entry of a code. -/
def lutFind : LutTable → Nat → Option Word
  | [], _ => none
  | (k, v) :: t, c => if k = c then some v else lutFind t c

/-- A table whose entries 0 to n - 1 are rewritten by `f` and whose other entries are kept. -/
def lutRewrite (t : LutTable) (n : Nat) (f : Nat → Word) : LutTable :=
  (List.range n).map (fun c => (c, f c)) ++ t.filter fun e => decide (n ≤ e.1)

/-! ### Registers and storage of a buffer -/

/-- The number of a buffer. -/
def bufNumber : BufSel → Nat
  | .buf0 => 0
  | .buf1 => 1

/-- The registers of buffer b (R36). -/
def bufRegs (s : State) : BufSel → Buffer
  | .buf0 => s.buf0
  | .buf1 => s.buf1

/-- Write the registers of buffer b. -/
def setBufRegs (s : State) (b : BufSel) (v : Buffer) : State :=
  match b with
  | .buf0 => { s with buf0 := v }
  | .buf1 => { s with buf1 := v }

/-- The storage RAM of buffer b (R38). -/
def ramOf (s : State) : BufSel → Memory
  | .buf0 => s.ram0
  | .buf1 => s.ram1

/-- Replace the storage RAM of buffer b. -/
def setRam (s : State) (b : BufSel) (m : Memory) : State :=
  match b with
  | .buf0 => { s with ram0 := m }
  | .buf1 => { s with ram1 := m }

/-- LEN_b = BUFb_BITLEN as a number (R10). -/
def bitLenOf (s : State) (b : BufSel) : Nat := (bufRegs s b).bitLen.toNat

/-- OFF_b = BUFb_OFFSET as a number (R10). -/
def offsetOf (s : State) (b : BufSel) : Nat := (bufRegs s b).offset.toNat

/-- `Stor(b, i)` (R10). A byte that nothing has written since power-on is that power-on's free byte (R46, I1; log 4). -/
def stor (s : State) (b : BufSel) (i : Nat) : Byte :=
  (memGet (ramOf s b) i).getD (Config.powerOnByte s.powerOns (bufNumber b) i)

/-- `Bit(b, p)` (R10): bits of a byte are numbered from the most significant (R7). -/
def bit (s : State) (b : BufSel) (p : Nat) : Bool :=
  (stor s b ((offsetOf s b + p) / 8)).getLsbD (7 - (offsetOf s b + p) % 8)

/-- `Field(b, p, n)` (R10): n bits, the first most significant. -/
def field (s : State) (b : BufSel) (p : Nat) : Nat → Nat
  | 0 => 0
  | n + 1 => 2 * field s b p n + (bit s b (p + n)).toNat

/-- `LeField(p, 8 m)` (R141): m bytes of BUF0, the first least significant. -/
def leField (s : State) (p : Nat) : Nat → Nat
  | 0 => 0
  | m + 1 => leField s p m + field s .buf0 (p + 8 * m) 8 * 2 ^ (8 * m)

/-- `LUT[n][c]` (R41). An entry nothing has written since power-on is that power-on's free word (I3; log 5). -/
def lutWord (s : State) (n : Slot) (c : Nat) : Word :=
  (lutFind s.lut[n] c).getD (Config.powerOnLutWord s.powerOns n.val c)

/-! ### Error codes and completion (R210, R214, R215) -/

/-- The errors a command can raise (R210). Code 3 (READ) and codes 8 to 15 are never produced. -/
inductive ErrorCode where
  | creation
  | interpret
  | byteAlign
  | index
  | illegal
  | value
deriving DecidableEq, Repr

/-- The value written to STATUS.ERRCODE (R210). -/
def errorNumber : ErrorCode → BitVec 4
  | .creation => 1#4
  | .interpret => 2#4
  | .byteAlign => 4#4
  | .index => 5#4
  | .illegal => 6#4
  | .value => 7#4

/-- The OP field of the latched command word, as LASTOP receives it (R31). -/
def pendOp (s : State) : BitVec 8 := s.pendCmd.extractLsb' 0 8

/-- `raise Err(code)` (R11, R214): the error completion, the block's only "trap entry". It saves nothing, changes no
mode and vectors nowhere. -/
def raiseErr (e : ErrorCode) (s : State) : State :=
  { s with err := true, errCode := errorNumber e, lastOp := pendOp s, busy := false }

/-- The success bookkeeping of R215, `complete_noresult` (R11). It is also the recovery from an error: there is no
return from the trap entry, and the next completion overwrites ERR and ERRCODE (R216). The pending latches keep their
values, which I16 leaves open (DESIGN CHOICE; log 7). -/
def completeNoResult (s : State) : State :=
  { s with err := false, errCode := 0#4, lastOp := pendOp s, busy := false }

/-- `complete(r)` (R11, R215): RES3 to RES0 take r, then the success bookkeeping. -/
def complete (r : Result) (s : State) : State :=
  completeNoResult { s with res := r }

/-! ### Small state updates -/

/-- STATUS.FOUND <- f (R28). -/
def setFound (f : Bool) (s : State) : State := { s with found := f }

/-- STATUS.OVR <- 1 (R29). -/
def setOvr (s : State) : State := { s with ovr := true }

/-- FA_CTL.ACTIVE <- 0, the other iterator fields kept (R39). -/
def deactivateFa (s : State) : State := { s with faActive := false }

/-- STATUS.FMT_VALID[n] <- v (R30). -/
def setFmtValid (n : Slot) (v : Bool) (s : State) : State :=
  { s with fmtValid :=
      if v then s.fmtValid ||| (1#4 <<< n.val) else s.fmtValid &&& ~~~(1#4 <<< n.val) }

/-- STATUS.FMT_VALID[n] (R30). -/
def isFmtValid (s : State) (n : Slot) : Bool := s.fmtValid.getLsbD n.val

/-- The acceptance of a command word, in one step (R33). -/
def acceptCommand (w : Word) (s : State) : State :=
  { s with
    pendCmd := w
    pendArg0 := s.arg0
    pendArg1 := s.arg1
    pendArg2 := s.arg2
    cmd := w
    busy := true }

/-! ### The two resets (R235 to R237) -/

/-- Soft reset (R237): every register to its reset value, storage and LUT RAM unchanged. The pending command is
cancelled (R218); PEND_* take their reset value, which is not observable (log 7). -/
def softReset (s : State) : State :=
  { s with
    busy := false, err := false, found := false, ovr := false
    fmtValid := 0#4, errCode := 0#4, lastOp := 0#8
    cmd := 0#32, arg0 := 0#32, arg1 := 0#32, arg2 := 0#32
    res := 0#128
    buf0 := Buffer.empty, buf1 := Buffer.empty
    faNext := 0#32, faEnd := 0#32, faBa := false, faActive := false
    fmt := #v[0#16, 0#16, 0#16, 0#16]
    pendCmd := 0#32, pendArg0 := 0#32, pendArg1 := 0#32, pendArg2 := 0#32 }

/-- Power-on reset (R236): the register values of R46, and storage and LUT RAM unspecified, drawn anew (log 4, log 5).
What the bus has answered the host stays (log 13). -/
def powerOnReset (s : State) : State :=
  { softReset s with
    ram0 := [], ram1 := []
    lut := #v[[], [], [], []]
    powerOns := s.powerOns + 1 }

end Sys2Proof.Machine
end

