-- ==== Sys2Proof/Machine/Operands.lean ====
section
/-! DEFINITION. The operand forms: the latched operands as unsigned numbers (R93) and the index translation of the L bit
(R111). -/

namespace Sys2Proof.Machine

/-- `a0`: PEND_ARG0 as an unsigned number (R93, R110). -/
def operand0 (s : State) : Nat := s.pendArg0.toNat

/-- `a1`: PEND_ARG1 as an unsigned number (R93, R110). -/
def operand1 (s : State) : Nat := s.pendArg1.toNat

/-- `a2`: PEND_ARG2 as an unsigned number (R93, R110). -/
def operand2 (s : State) : Nat := s.pendArg2.toNat

/-- `tr_index` (R111); requires i < len. -/
def trIndex (len i : Nat) : Nat := len - i - 1

/-- `tr_range` (R111); requires a ≤ e ≤ len. -/
def trRange (len a e : Nat) : Nat × Nat := (len - e, len - a)

/-- `tr_field` (R111); requires a + n ≤ len. -/
def trField (len a n : Nat) : Nat := len - a - n

/-- The native position of a bit operand. -/
def nativeIndex (l : Numbering) (len i : Nat) : Nat :=
  match l with
  | .msb0 => i
  | .lsb0 => trIndex len i

/-- The native range of a range operand. -/
def nativeRange (l : Numbering) (len a e : Nat) : Nat × Nat :=
  match l with
  | .msb0 => (a, e)
  | .lsb0 => trRange len a e

/-- The native start of an n-bit field operand. -/
def nativeField (l : Numbering) (len a n : Nat) : Nat :=
  match l with
  | .msb0 => a
  | .lsb0 => trField len a n

end Sys2Proof.Machine
end

