-- ==== Sys2Proof/Machine/BufferBitfield.lean ====
section
/-! DEFINITION. The commands of 40_buffer_bitfield.md: NOP, ZEROS, LOAD, GET_BIT, GET_BYTE_RANGE, EXTRACT. Each runs its
checks in the order of its pseudocode, then completes (R110). -/

namespace Sys2Proof.Machine

/-- NOP (R112). -/
def execNop (s : State) : Host.Outcome State Fault Refusal :=
  .next (completeNoResult s)

/-- What ZEROS n does to buffer b (R113): bytes 0 to ceil(n/8) - 1 cleared, the registers set, the iterator
deactivated (R39). -/
def constructZeros (b : BufSel) (n : Nat) (s : State) : State :=
  let cleared := setRam s b (memZero (ramOf s b) (ceilDiv8 n))
  deactivateFa (setBufRegs cleared b
    { offset := 0#3, bitLen := BitVec.ofNat 32 n, nBytes := BitVec.ofNat 32 (ceilDiv8 n) })

/-- ZEROS (R113). -/
def execZeros (b : BufSel) (s : State) : Host.Outcome State Fault Refusal :=
  if 8 * s.params.capBytes < operand0 s then .next (raiseErr .creation s)
  else .next (completeNoResult (constructZeros b (operand0 s) s))

/-- The registers LOAD gives a buffer (R114): the canonical empty buffer when the length is 0. -/
def loadedBuffer (off n : Nat) : Buffer :=
  if n = 0 then Buffer.empty
  else { offset := BitVec.ofNat 3 off, bitLen := BitVec.ofNat 32 n, nBytes := BitVec.ofNat 32 (ceilDiv8 (off + n)) }

/-- LOAD (R114): off = a0, n = a1, sn = a2. It moves no data. -/
def execLoad (b : BufSel) (s : State) : Host.Outcome State Fault Refusal :=
  if s.params.capBytes < operand2 s then .next (raiseErr .creation s)
  else if 8 ≤ operand0 s then .next (raiseErr .creation s)
  else if 8 * operand2 s < operand0 s + operand1 s then .next (raiseErr .creation s)
  else .next (completeNoResult (deactivateFa (setBufRegs s b (loadedBuffer (operand0 s) (operand1 s)))))

/-- GET_BIT (R115). -/
def execGetBit (l : Numbering) (s : State) : Host.Outcome State Fault Refusal :=
  if bitLenOf s .buf0 ≤ operand0 s then .next (raiseErr .index s)
  else .next (complete (zext128 (bit s .buf0 (nativeIndex l (bitLenOf s .buf0) (operand0 s))).toNat) s)

/-- First byte index and byte count of the native range [ns, ne) of BUF0 (R116). -/
def byteSpan (s : State) (ns ne : Nat) : Nat × Nat :=
  let first := (offsetOf s .buf0 + ns) / 8
  (first, if ns = ne then 0 else ceilDiv8 (offsetOf s .buf0 + ne) - first)

/-- GET_BYTE_RANGE (R116). -/
def execGetByteRange (l : Numbering) (s : State) : Host.Outcome State Fault Refusal :=
  if operand1 s < operand0 s ∨ bitLenOf s .buf0 < operand1 s then .next (raiseErr .index s)
  else
    let r := nativeRange l (bitLenOf s .buf0) (operand0 s) (operand1 s)
    let span := byteSpan s r.1 r.2
    .next (complete (packRes 0#32 0#32 (BitVec.ofNat 32 span.2) (BitVec.ofNat 32 span.1)) s)

/-- The zero-padded export of an n-bit field value (R117): with P = 1 the padding follows the field. -/
def padField (padAtEnd : Bool) (n v : Nat) : Nat :=
  if padAtEnd then v * 2 ^ (8 * ceilDiv8 n - n) else v

/-- EXTRACT (R117). -/
def execExtract (l : Numbering) (padAtEnd : Bool) (s : State) : Host.Outcome State Fault Refusal :=
  if 128 < operand1 s then .next (raiseErr .interpret s)
  else if bitLenOf s .buf0 < operand0 s + operand1 s then .next (raiseErr .index s)
  else
    let ns := nativeField l (bitLenOf s .buf0) (operand0 s) (operand1 s)
    .next (complete (zext128 (padField padAtEnd (operand1 s) (field s .buf0 ns (operand1 s)))) s)

end Sys2Proof.Machine
end

