-- ==== Sys2Proof/Machine/Finder.lean ====
section
/-! DEFINITION. The substring searcher of 43_finder.md: the match set and FIND, RFIND, FINDALL_FIRST, FINDALL_NEXT. The
haystack is BUF0 and the needle BUF1 (R36). -/

namespace Sys2Proof.Machine

/-- Every bit of the needle equals the haystack's bit at p on (R190). -/
def needleAt (s : State) (p : Nat) : Bool :=
  (List.range (bitLenOf s .buf1)).all fun k => bit s .buf0 (p + k) == bit s .buf1 k

/-- p is in `matches(st, en, ba)` (R190). Alignment counts from logical bit 0. -/
def isMatch (s : State) (st en : Nat) (ba : Bool) (p : Nat) : Bool :=
  decide (st ≤ p) && decide (p + bitLenOf s .buf1 ≤ en) && (!ba || p % 8 == 0) && needleAt s p

/-- `matches(st, en, ba)` (R190), in increasing order. -/
def matchList (s : State) (st en : Nat) (ba : Bool) : List Nat :=
  (List.range' st (en + 1 - st)).filter (isMatch s st en ba)

/-- `search_checks` (R191): the error it raises, if any. -/
def searchError (s : State) (st en : Nat) : Option ErrorCode :=
  if bitLenOf s .buf1 = 0 then some .value
  else if en < st ∨ bitLenOf s .buf0 < en then some .index
  else none

/-- The RES value of a search that finds nothing (R192). -/
def notFound : Result := zext128 0xFFFFFFFF

/-- STATUS.FOUND and RES of a search's result, then success (R192, R28). -/
def completeSearch (p : Option Nat) (s : State) : State :=
  match p with
  | none => complete notFound (setFound false s)
  | some p => complete (zext128 p) (setFound true s)

/-- FIND (R192): the least match. -/
def execFind (ba : Bool) (s : State) : Host.Outcome State Fault Refusal :=
  match searchError s (operand0 s) (operand1 s) with
  | some e => .next (raiseErr e s)
  | none => .next (completeSearch (matchList s (operand0 s) (operand1 s) ba).head? s)

/-- RFIND (R193): the greatest match. -/
def execRfind (ba : Bool) (s : State) : Host.Outcome State Fault Refusal :=
  match searchError s (operand0 s) (operand1 s) with
  | some e => .next (raiseErr e s)
  | none => .next (completeSearch (matchList s (operand0 s) (operand1 s) ba).getLast? s)

/-- How far the iterator steps past a match (R194). -/
def searchStep (ba : Bool) : Nat := if ba then 8 else 1

/-- The iterator's registers after a search of FA_END = en with result p (R194, R195). -/
def advanceFa (p : Option Nat) (en : Nat) (ba : Bool) (s : State) : State :=
  match p with
  | none => { s with faNext := BitVec.ofNat 32 en, faActive := false }
  | some p => { s with faNext := BitVec.ofNat 32 (p + searchStep ba), faActive := true }

/-- FINDALL_FIRST (R194). -/
def execFindallFirst (ba : Bool) (s : State) : Host.Outcome State Fault Refusal :=
  match searchError s (operand0 s) (operand1 s) with
  | some e => .next (raiseErr e s)
  | none =>
    let p := (matchList s (operand0 s) (operand1 s) ba).head?
    let started := { s with faEnd := BitVec.ofNat 32 (operand1 s), faBa := ba }
    .next (completeSearch p (advanceFa p (operand1 s) ba started))

/-- FINDALL_NEXT (R195). An exhausted or inactive iterator is not an error. -/
def execFindallNext (s : State) : Host.Outcome State Fault Refusal :=
  if s.faActive then
    let p := (matchList s s.faNext.toNat s.faEnd.toNat s.faBa).head?
    .next (completeSearch p (advanceFa p s.faEnd.toNat s.faBa s))
  else .next (completeSearch none s)

end Sys2Proof.Machine
end

