-- ==== Sys2Proof/Machine/IntegerCodec.lean ====
section
/-! DEFINITION. The commands of 41_integer.md: READ_UINT and READ_INT, each big-, little- and native-endian. -/

namespace Sys2Proof.Machine

/-- The field is read little-endian: END = 1, or END = 2 on a build with NATIVE_LE = 1 (R140). -/
def isLittle (e : Endian) (p : Params) : Bool :=
  match e with
  | .be => false
  | .le => true
  | .ne => p.nativeLe

/-- END in {1, 2}: the length must be a whole number of bytes, under either NATIVE_LE (R140, D7). -/
def needsWholeBytes : Endian → Bool
  | .be => false
  | .le => true
  | .ne => true

/-- `int_field` (R140): the unsigned value of the field, its checks in the order of R212. -/
def intField (e : Endian) (l : Numbering) (s : State) : Except ErrorCode Nat :=
  if operand1 s = 0 ∨ 128 < operand1 s then .error .interpret
  else if needsWholeBytes e ∧ operand1 s % 8 ≠ 0 then .error .byteAlign
  else if bitLenOf s .buf0 < operand0 s + operand1 s then .error .index
  else
    let ns := nativeField l (bitLenOf s .buf0) (operand0 s) (operand1 s)
    .ok (if isLittle e s.params then leField s ns (operand1 s / 8) else field s .buf0 ns (operand1 s))

/-- An unsigned read in byte order e: the field zero-extended (R142 to R144, R148). -/
def readUint (e : Endian) (l : Numbering) (s : State) : Host.Outcome State Fault Refusal :=
  match intField e l s with
  | .error x => .next (raiseErr x s)
  | .ok u => .next (complete (zext128 u) s)

/-- A signed read in byte order e: the two's-complement value sign-extended (R145 to R147, R148). -/
def readInt (e : Endian) (l : Numbering) (s : State) : Host.Outcome State Fault Refusal :=
  match intField e l s with
  | .error x => .next (raiseErr x s)
  | .ok u => .next (complete (sext128 (signedValue u (operand1 s))) s)

/-- READ_UINT_BE (R142). -/
def execReadUintBe (l : Numbering) (s : State) : Host.Outcome State Fault Refusal := readUint .be l s

/-- READ_UINT_LE (R143). -/
def execReadUintLe (l : Numbering) (s : State) : Host.Outcome State Fault Refusal := readUint .le l s

/-- READ_UINT_NE (R144). -/
def execReadUintNe (l : Numbering) (s : State) : Host.Outcome State Fault Refusal := readUint .ne l s

/-- READ_INT_BE (R145). -/
def execReadIntBe (l : Numbering) (s : State) : Host.Outcome State Fault Refusal := readInt .be l s

/-- READ_INT_LE (R146). -/
def execReadIntLe (l : Numbering) (s : State) : Host.Outcome State Fault Refusal := readInt .le l s

/-- READ_INT_NE (R147). -/
def execReadIntNe (l : Numbering) (s : State) : Host.Outcome State Fault Refusal := readInt .ne l s

end Sys2Proof.Machine
end

