-- ==== Sys2Proof/Machine/NarrowFloat.lean ====
section
/-! DEFINITION. The narrow-float decoder of 42_narrow_float.md: format descriptors, the closed-form decode, its binary32
packing, and FMT_BUILD, NF_DECODE, NF_LOOKUP. -/

namespace Sys2Proof.Machine

/-! ### Format descriptors (R40, R160, R161) -/

/-- Exponent width E, bits 2:0 (R40). -/
def fmtE (f : BitVec 16) : Nat := (f.extractLsb' 0 3).toNat

/-- Mantissa width M, bits 5:3 (R40). -/
def fmtM (f : BitVec 16) : Nat := (f.extractLsb' 3 3).toNat

/-- Carve-out policy SP, bits 7:6 (R40). -/
def fmtSp (f : BitVec 16) : Nat := (f.extractLsb' 6 2).toNat

/-- BIAS, bits 15:8, unsigned (R40). -/
def fmtBias (f : BitVec 16) : Nat := (f.extractLsb' 8 8).toNat

/-- Code width W = 1 + E + M (R160). -/
def codeWidth (f : BitVec 16) : Nat := 1 + fmtE f + fmtM f

/-- `legal(F)` (R161). -/
def fmtLegal (f : BitVec 16) : Bool :=
  decide (1 ≤ fmtE f) && decide (fmtE f + fmtM f ≤ 7) && decide (fmtBias f + fmtM f ≤ 150)

/-- The sign bit of a code (R160). -/
def codeSign (f : BitVec 16) (c : Nat) : Nat := c / 2 ^ (fmtE f + fmtM f)

/-- The exponent field of a code (R160). -/
def codeExp (f : BitVec 16) (c : Nat) : Nat := c / 2 ^ fmtM f % 2 ^ fmtE f

/-- The mantissa field of a code (R160). -/
def codeMant (f : BitVec 16) (c : Nat) : Nat := c % 2 ^ fmtM f

/-! ### Carve-outs (R162) -/

/-- c is a NaN code of F (R162). -/
def isNanCode (f : BitVec 16) (c : Nat) : Bool :=
  match fmtSp f with
  | 1 => codeExp f c == 2 ^ fmtE f - 1 && codeMant f c == 2 ^ fmtM f - 1
  | 2 => codeExp f c == 2 ^ fmtE f - 1 && codeMant f c != 0
  | 3 => c == 2 ^ (codeWidth f - 1)
  | _ => false

/-- c is the +Inf code of F (R162). -/
def isPosInfCode (f : BitVec 16) (c : Nat) : Bool :=
  match fmtSp f with
  | 2 => codeSign f c == 0 && codeExp f c == 2 ^ fmtE f - 1 && codeMant f c == 0
  | 3 => c == 2 ^ (codeWidth f - 1) - 1
  | _ => false

/-- c is the -Inf code of F (R162). -/
def isNegInfCode (f : BitVec 16) (c : Nat) : Bool :=
  match fmtSp f with
  | 2 => codeSign f c == 1 && codeExp f c == 2 ^ fmtE f - 1 && codeMant f c == 0
  | 3 => c == 2 ^ codeWidth f - 1
  | _ => false

/-! ### Closed-form decode (R163) and binary32 packing (R164) -/

/-- A decoded value (R163). `finite neg mant exp` is the exact number ±mant · 2^exp. -/
inductive NarrowValue where
  | nan
  | inf (neg : Bool)
  | finite (neg : Bool) (mant : Nat) (exp : Int)
deriving DecidableEq, Repr

/-- `decode_value(F, c)` (R163). -/
def decodeValue (f : BitVec 16) (c : Nat) : NarrowValue :=
  if isNanCode f c then .nan
  else if isPosInfCode f c then .inf false
  else if isNegInfCode f c then .inf true
  else if codeExp f c = 0 then
    .finite (codeSign f c == 1) (codeMant f c) (1 - (fmtBias f : Int) - fmtM f)
  else
    .finite (codeSign f c == 1) (2 ^ fmtM f + codeMant f c) ((codeExp f c : Int) - fmtBias f - fmtM f)

/-- Sign, biased exponent and fraction as a binary32 word (R13). -/
def packB32 (neg : Bool) (ex fr : Nat) : Word :=
  BitVec.ofBool neg ++ BitVec.ofNat 8 ex ++ BitVec.ofNat 23 fr

/-- `to_b32` (R164). For a = mant · 2^exp ≠ 0 the exponent of the leading 1 is t = log2 mant + exp; the fraction is
(a / 2^t - 1) · 2^23 for a normal result and a · 2^149 for a subnormal one, both exact for a legal format. -/
def toB32 : NarrowValue → Word
  | .nan => 0x7FC00000#32
  | .inf false => 0x7F800000#32
  | .inf true => 0xFF800000#32
  | .finite neg mant exp =>
    if mant = 0 then packB32 neg 0 0
    else
      let t : Int := (Nat.log2 mant : Int) + exp
      if -126 ≤ t then packB32 neg (t + 127).toNat (mant * 2 ^ (23 - Nat.log2 mant) - 2 ^ 23)
      else packB32 neg 0 (mant * 2 ^ (exp + 149).toNat)

/-- `class(F, c)` (R165): 2 for NaN, 1 for an infinity, 0 for a finite code. -/
def codeClass (f : BitVec 16) (c : Nat) : Nat :=
  if isNanCode f c then 2
  else if isPosInfCode f c || isNegInfCode f c then 1
  else 0

/-! ### The commands -/

/-- The table FMT_BUILD leaves in slot n (R166): codes below 2^W from the closed form, the others kept. -/
def builtTable (f : BitVec 16) (t : LutTable) : LutTable :=
  lutRewrite t (2 ^ codeWidth f) fun c => toB32 (decodeValue f c)

/-- What a successful FMT_BUILD of slot n writes (R166). -/
def buildSlot (n : Slot) (s : State) : State :=
  setFmtValid n true { s with lut := s.lut.set n.val (builtTable s.fmt[n] s.lut[n]) }

/-- FMT_BUILD (R166). -/
def execFmtBuild (n : Slot) (s : State) : Host.Outcome State Fault Refusal :=
  if fmtLegal s.fmt[n] then .next (completeNoResult (buildSlot n s))
  else .next (raiseErr .interpret s)

/-- The 128-bit result of a decode through slot n: binary32 word, code, class, 0 (R167, R168). -/
def narrowResult (n : Slot) (c : Nat) (s : State) : Result :=
  packRes 0#32 (BitVec.ofNat 32 (codeClass s.fmt[n] c)) (BitVec.ofNat 32 c) (lutWord s n c)

/-- NF_DECODE (R167). -/
def execNfDecode (l : Numbering) (n : Slot) (s : State) : Host.Outcome State Fault Refusal :=
  if isFmtValid s n then
    if bitLenOf s .buf0 < operand0 s + codeWidth s.fmt[n] then .next (raiseErr .index s)
    else
      let ns := nativeField l (bitLenOf s .buf0) (operand0 s) (codeWidth s.fmt[n])
      .next (complete (narrowResult n (field s .buf0 ns (codeWidth s.fmt[n])) s) s)
  else .next (raiseErr .interpret s)

/-- NF_LOOKUP (R168). -/
def execNfLookup (n : Slot) (s : State) : Host.Outcome State Fault Refusal :=
  if isFmtValid s n then
    if 2 ^ codeWidth s.fmt[n] ≤ operand0 s then .next (raiseErr .index s)
    else .next (complete (narrowResult n (operand0 s) s) s)
  else .next (raiseErr .interpret s)

end Sys2Proof.Machine
end

