-- ==== Sys2Proof/Machine/Dispatch.lean ====
section
/-! DEFINITION. One arm per instruction: the command engine's completion step for a decoded command (R110). -/

namespace Sys2Proof.Machine

def exec (i : Instr) (s : State) : Host.Outcome State Fault Refusal :=
  match i with
  | .nop => Sys2Proof.Machine.execNop s
  | .zeros b => Sys2Proof.Machine.execZeros b s
  | .load b => Sys2Proof.Machine.execLoad b s
  | .getBit l => Sys2Proof.Machine.execGetBit l s
  | .getByteRange l => Sys2Proof.Machine.execGetByteRange l s
  | .extract l p => Sys2Proof.Machine.execExtract l p s
  | .readUintBe l => Sys2Proof.Machine.execReadUintBe l s
  | .readUintLe l => Sys2Proof.Machine.execReadUintLe l s
  | .readUintNe l => Sys2Proof.Machine.execReadUintNe l s
  | .readIntBe l => Sys2Proof.Machine.execReadIntBe l s
  | .readIntLe l => Sys2Proof.Machine.execReadIntLe l s
  | .readIntNe l => Sys2Proof.Machine.execReadIntNe l s
  | .fmtBuild n => Sys2Proof.Machine.execFmtBuild n s
  | .nfDecode l n => Sys2Proof.Machine.execNfDecode l n s
  | .nfLookup n => Sys2Proof.Machine.execNfLookup n s
  | .find ba => Sys2Proof.Machine.execFind ba s
  | .rfind ba => Sys2Proof.Machine.execRfind ba s
  | .findallFirst ba => Sys2Proof.Machine.execFindallFirst ba s
  | .findallNext => Sys2Proof.Machine.execFindallNext s

end Sys2Proof.Machine
end

