-- ==== Sys2Proof/Machine/Flags.lean ====
section
/-! DEFINITION. STATUS and the other registers whose bits are composed of fields: STATUS (R25), CFG (R23), FA_CTL (R39).
The setting of each STATUS field by completion, drop and reset is in Ops.lean (R214, R215, R28 to R30). -/

namespace Sys2Proof.Machine

/-- One bit from a flag. -/
def bitOf (b : Bool) : BitVec 1 := BitVec.ofBool b

/-- STATUS (R25): reserved bits 15:12 and 31:24 read 0. -/
def statusWord (s : State) : Word :=
  0#8 ++ s.lastOp ++ 0#4 ++ s.errCode ++ s.fmtValid ++ bitOf s.ovr ++ bitOf s.found ++ bitOf s.err ++ bitOf s.busy

/-- CFG (R23): NATIVE_LE in bit 0, NUM_FMT_SLOTS = 4 in 7:4, MAX_FIELD_BYTES = 16 in 15:8, the rest 0. -/
def cfgWord (p : Params) : Word := 0#16 ++ 16#8 ++ 4#4 ++ 0#3 ++ bitOf p.nativeLe

/-- FA_CTL (R39): BA in bit 0, ACTIVE in bit 1, the rest 0. -/
def faCtlWord (s : State) : Word := 0#30 ++ bitOf s.faActive ++ bitOf s.faBa

end Sys2Proof.Machine
end

