-- ==== Sys2Proof/Machine/HostBus.lean ====
section
/-! DEFINITION. The host's side of the block (20_memory.md): the aperture map R70, register reads and writes, window reads
and writes, bus errors, and what BUSY does to them (R245 to R249). -/

namespace Sys2Proof.Machine

/-! ### The address map (R60, R65 to R67, R70) -/

/-- The registers of the map R70; every other offset of the register space is reserved (R42). -/
inductive Reg where
  | id | cfg | capacity | status | ctrl | cmd | arg0 | arg1 | arg2
  | res0 | res1 | res2 | res3
  | bufOffset (b : BufSel) | bufBitLen (b : BufSel) | bufNBytes (b : BufSel)
  | faNext | faEnd | faCtl
  | fmt (n : Slot)
  | reserved
deriving DecidableEq, Repr

/-- The register at a 4-byte aligned offset below 0x1000 (R70). -/
def regAt (a : Nat) : Reg :=
  match a with
  | 0x000 => .id
  | 0x004 => .cfg
  | 0x008 => .capacity
  | 0x00C => .status
  | 0x010 => .ctrl
  | 0x014 => .cmd
  | 0x018 => .arg0
  | 0x01C => .arg1
  | 0x020 => .arg2
  | 0x030 => .res0
  | 0x034 => .res1
  | 0x038 => .res2
  | 0x03C => .res3
  | 0x040 => .bufOffset .buf0
  | 0x044 => .bufBitLen .buf0
  | 0x048 => .bufNBytes .buf0
  | 0x050 => .bufOffset .buf1
  | 0x054 => .bufBitLen .buf1
  | 0x058 => .bufNBytes .buf1
  | 0x060 => .faNext
  | 0x064 => .faEnd
  | 0x068 => .faCtl
  | 0x080 => .fmt 0
  | 0x084 => .fmt 1
  | 0x088 => .fmt 2
  | 0x08C => .fmt 3
  | _ => .reserved

/-- Bytes of a width (R64). -/
def widthBytes : Width → Nat
  | .byte => 1
  | .half => 2
  | .word => 4

/-- WIN_b, the aperture offset of buffer b's storage window (R66). -/
def winBase : BufSel → Nat
  | .buf0 => 0x1000000
  | .buf1 => 0x2000000

/-- What a legal access reaches. -/
inductive Target where
  | reg (r : Reg)
  | window (b : BufSel) (i : Nat)
deriving DecidableEq, Repr

/-- A window access at index i of n bytes is legal (R66). -/
def windowLegal (p : Params) (i n : Nat) : Bool := i % n == 0 && decide (i + n ≤ p.capBytes)

/-- What an access of a width at an aperture offset reaches; none where the block rejects it (R65 to R67). -/
def targetOf (p : Params) (a : Nat) (w : Width) : Option Target :=
  if a < 0x1000 then
    if w = .word ∧ a % 4 = 0 then some (.reg (regAt a)) else none
  else if a < winBase .buf0 then none
  else if a < winBase .buf1 then
    if windowLegal p (a - winBase .buf0) (widthBytes w) then some (.window .buf0 (a - winBase .buf0)) else none
  else if a < 0x3000000 then
    if windowLegal p (a - winBase .buf1) (widthBytes w) then some (.window .buf1 (a - winBase .buf1)) else none
  else none

/-- The aperture offset of a bus address; none outside [BASE, BASE + 2^26) (R60). -/
def apertureOffset (p : Params) (addr : Nat) : Option Nat :=
  if p.base ≤ addr ∧ addr < p.base + 0x4000000 then some (addr - p.base) else none

/-! ### Reads (R66, R72, R248, R249) -/

/-- The value a register reads as. Reads have no side effects (R72). -/
def regRead (s : State) : Reg → Word
  | .id => 0x42465831#32
  | .cfg => cfgWord s.params
  | .capacity => BitVec.ofNat 32 s.params.capBytes
  | .status => statusWord s
  | .ctrl => 0#32
  | .cmd => s.cmd
  | .arg0 => s.arg0
  | .arg1 => s.arg1
  | .arg2 => s.arg2
  | .res0 => s.res.extractLsb' 0 32
  | .res1 => s.res.extractLsb' 32 32
  | .res2 => s.res.extractLsb' 64 32
  | .res3 => s.res.extractLsb' 96 32
  | .bufOffset b => (bufRegs s b).offset.setWidth 32
  | .bufBitLen b => (bufRegs s b).bitLen
  | .bufNBytes b => (bufRegs s b).nBytes
  | .faNext => s.faNext
  | .faEnd => s.faEnd
  | .faCtl => faCtlWord s
  | .fmt n => s.fmt[n].setWidth 32
  | .reserved => 0#32

/-- The little-endian lanes of n bytes, the byte f 0 least significant (R66). -/
def laneValue (f : Nat → Byte) : Nat → Nat
  | 0 => 0
  | n + 1 => laneValue f n + (f n).toNat * 2 ^ (8 * n)

/-- A ZEROS of buffer b is pending, decoded as legal (R248). -/
def zerosPending (s : State) (b : BufSel) : Bool :=
  s.busy &&
    match decode s.pendCmd with
    | .ok (.zeros c) => c == b
    | _ => false

/-- The value a window read returns: the stored bytes, or the free bytes of R248 (log 6). -/
def windowValue (s : State) (b : BufSel) (i : Nat) (w : Width) : Word :=
  if zerosPending s b then BitVec.ofNat 32 (laneValue (Config.busyReadByte s.draws) (widthBytes w))
  else BitVec.ofNat 32 (laneValue (fun j => stor s b (i + j)) (widthBytes w))

/-- The answer to an access, with the state unchanged otherwise. -/
def respond (r : Response) (s : State) : State := { s with responses := r :: s.responses }

/-- A legal read (R64 to R66). An unspecified window read takes its own draw of free bytes. -/
def hostRead (t : Target) (w : Width) (s : State) : State :=
  match t with
  | .reg r => respond (.data (regRead s r)) s
  | .window b i =>
    if zerosPending s b then respond (.data (windowValue s b i w)) { s with draws := s.draws + 1 }
    else respond (.data (windowValue s b i w)) s

/-! ### Writes (R32 to R34, R40, R43, R66, R245 to R247) -/

/-- A write to CTRL (R32): the soft reset first, then CLR_OVR. -/
def ctrlWrite (v : Word) (s : State) : State :=
  let r := if v.getLsbD 0 then softReset s else s
  if v.getLsbD 1 then { r with ovr := false } else r

/-- An accepted write to FMTn (R40): bits 15:0 stored, FMT_VALID[n] cleared, LUT[n] kept. -/
def fmtWrite (n : Slot) (v : Word) (s : State) : State :=
  setFmtValid n false { s with fmt := s.fmt.set n.val (v.setWidth 16) }

/-- A legal register write. CMD and FMTn writes are dropped while BUSY = 1 (R245, R246); read-only registers and
reserved offsets ignore writes (R42, R43). -/
def regWrite (r : Reg) (v : Word) (s : State) : State :=
  match r with
  | .ctrl => ctrlWrite v s
  | .cmd => if s.busy then setOvr s else acceptCommand v s
  | .arg0 => { s with arg0 := v }
  | .arg1 => { s with arg1 := v }
  | .arg2 => { s with arg2 := v }
  | .fmt n => if s.busy then setOvr s else fmtWrite n v s
  | .id | .cfg | .capacity | .status | .res0 | .res1 | .res2 | .res3
  | .bufOffset _ | .bufBitLen _ | .bufNBytes _ | .faNext | .faEnd | .faCtl | .reserved => s

/-- Byte j of a bus value (R66). -/
def laneByte (v : Word) (j : Nat) : Byte := v.extractLsb' (8 * j) 8

/-- Store the low n bytes of v at index i on, the least significant at i (R66). -/
def memStore (m : Memory) (i : Nat) (v : Word) : Nat → Memory
  | 0 => m
  | n + 1 => memPut (memStore m i v n) (i + n) (laneByte v n)

/-- A legal window write: storage only, dropped while BUSY = 1 (R66, R247). -/
def windowWrite (b : BufSel) (i : Nat) (w : Width) (v : Word) (s : State) : State :=
  if s.busy then setOvr s else setRam s b (memStore (ramOf s b) i v (widthBytes w))

/-- A legal write (R64 to R66). -/
def hostWrite (t : Target) (w : Width) (v : Word) (s : State) : State :=
  match t with
  | .reg r => respond .done (regWrite r v s)
  | .window b i => respond .done (windowWrite b i w v s)

/-- A rejected access (R68): nothing of the block changes, the host's fault is recorded for good (log 9). -/
def busError (s : State) : State := respond .busError { s with hostFault := true }

/-- One host access at an aperture offset (R64). -/
def readAt (a : Nat) (w : Width) (s : State) : State :=
  match targetOf s.params a w with
  | none => busError s
  | some t => hostRead t w s

/-- One host access at an aperture offset (R64). -/
def writeAt (a : Nat) (w : Width) (v : Word) (s : State) : State :=
  match targetOf s.params a w with
  | none => busError s
  | some t => hostWrite t w v s

/-- One host bus access (R60, R64). An address outside the aperture is not this machine's (log 10). -/
def hostStep (a : HostAccess) (s : State) : Host.Outcome State Fault Refusal :=
  match a with
  | .read addr w =>
    match apertureOffset s.params addr with
    | none => .fault .outsideAperture
    | some off => .next (readAt off w s)
  | .write addr w v =>
    match apertureOffset s.params addr with
    | none => .fault .outsideAperture
    | some off => .next (writeAt off w v s)

end Sys2Proof.Machine
end

