-- ==== Sys2Proof/Machine/Engine.lean ====
section
/-! DEFINITION. The command engine's step: the completion of the pending command (R71, R74, R96). -/

namespace Sys2Proof.Machine

/-- The completion step of a pending command: decode PEND_CMD, then the instruction's meaning, or the error completion
ILLEGAL for a word that does not decode (R94, R96, R211). -/
def completionStep (s : State) : Host.Outcome State Fault Refusal :=
  match decode s.pendCmd with
  | .error _ => .next (raiseErr .illegal s)
  | .ok i => exec i s

/-- The engine's turn. The completion step is enabled only while BUSY = 1 (R74); else the block is idle and its state
persists (R222). -/
def engineStep (s : State) : Host.Outcome State Fault Refusal :=
  if s.busy then completionStep s else .next s

/-- One turn of the block and its host (log 2). -/
def inputStep (i : Input) (s : State) : Host.Outcome State Fault Refusal :=
  match i with
  | .access a => hostStep a s
  | .engineTurn => engineStep s
  | .powerOn => .next (powerOnReset s)

/-- The inputs that give the engine the next turn: none stays none, else one engine turn is put in front. -/
def engineFirst (q : List Input) : List Input :=
  match q with
  | [] => []
  | x :: rest => .engineTurn :: x :: rest

end Sys2Proof.Machine
end

