-- ==== Sys2Proof/Machine/Step.lean ====
section
/-! DEFINITION. One step of the machine: the next turn of the inputs, or the engine's own when none is waiting (R74). -/

namespace Sys2Proof.Machine

/-- One step. With no input left the engine moves if a command is pending, so no command stays pending for ever (R252). -/
def step (s : State) : Host.Outcome State Fault Refusal :=
  match s.inputs with
  | [] => engineStep s
  | i :: rest => inputStep i { s with inputs := rest }

/-- s with a command word accepted (R33) and the engine's turn next, so that step completes exactly that command. The
block fetches nothing (R21): the word stands where the engine finds its next command, in PEND_CMD (log 3). -/
def State.withFetchWord (s : State) (nbits w : Nat) : State :=
  let t := acceptCommand (BitVec.ofNat 32 (w % 2 ^ nbits)) s
  { t with inputs := engineFirst t.inputs }

end Sys2Proof.Machine
end

