-- ==== Sys2Proof/Safety.lean ====
section
/-! DEFINITION. What the claims mean by a good state and a good run: the invariants the spec states of every reachable
state, and the polling protocol of R251. -/

namespace Sys2Proof.Machine

/-! ### Invariants of the state -/

/-- R37 and the ranges of R36 for one buffer: NBYTES = ceil((OFFSET + BITLEN) / 8), a buffer of length 0 is the
canonical empty one, and the buffer fits its RAM. -/
abbrev bufferWf (p : Params) (b : Buffer) : Prop :=
  b.nBytes.toNat = ceilDiv8 (b.offset.toNat + b.bitLen.toNat) ∧
  (b.bitLen = 0#32 → b = Buffer.empty) ∧
  b.bitLen.toNat ≤ 8 * p.capBytes ∧
  b.nBytes.toNat ≤ p.capBytes

/-- Both buffers are well formed (R37). -/
abbrev buffersWf (s : State) : Prop := bufferWf s.params s.buf0 ∧ bufferWf s.params s.buf1

/-- Both storage RAMs are in canonical form and hold no index at or above CAP_BYTES (R38). -/
abbrev ramsWf (s : State) : Prop :=
  (Memory.wf s.ram0 = true ∧ Memory.within s.params.capBytes s.ram0 = true) ∧
  (Memory.wf s.ram1 = true ∧ Memory.within s.params.capBytes s.ram1 = true)

/-- ERRCODE holds a code of R210 that is produced (never 3 or 8 to 15, I15), and ERR is 1 exactly when it is not 0
(R27). -/
abbrev errorFieldsWf (s : State) : Prop :=
  s.errCode ∈ [0#4, 1#4, 2#4, 4#4, 5#4, 6#4, 7#4] ∧ (s.err = true ↔ s.errCode ≠ 0#4)

/-- R169: a built slot holds a legal descriptor, and its table agrees with the closed form. -/
abbrev tablesWf (s : State) : Prop :=
  ∀ n : Slot, isFmtValid s n = true →
    fmtLegal s.fmt[n] = true ∧
    ∀ c < 2 ^ codeWidth s.fmt[n], lutWord s n c = toB32 (decodeValue s.fmt[n] c)

/-- R195, corner cases: while ACTIVE = 1, NLEN ≥ 1 and FA_END ≤ HLEN. -/
abbrev iteratorWf (s : State) : Prop :=
  s.faActive = true → 1 ≤ bitLenOf s .buf1 ∧ s.faEnd.toNat ≤ bitLenOf s .buf0

/-- Every invariant together, with legal parameters (R6). -/
abbrev stateWf (s : State) : Prop :=
  s.params.wf = true ∧ buffersWf s ∧ ramsWf s ∧ errorFieldsWf s ∧ tablesWf s ∧ iteratorWf s

/-! ### Safe runs -/

/-- A write that the block would drop while BUSY = 1: CMD, FMTn or a storage window (R245 to R247). -/
def mayBeDropped (p : Params) (a : HostAccess) : Bool :=
  match a with
  | .read _ _ => false
  | .write addr w _ =>
    match apertureOffset p addr with
    | none => false
    | some off =>
      match targetOf p off w with
      | some (.reg .cmd) => true
      | some (.reg (.fmt _)) => true
      | some (.window _ _) => true
      | _ => false

/-- The next input keeps to the polling protocol (R251 b, c): while BUSY = 1 it is no write that would be dropped. -/
def followsPolling (s : State) : Bool :=
  match s.inputs with
  | .access a :: _ => !(s.busy && mayBeDropped s.params a)
  | _ => true

/-- The access is one of the block's: its bus address lies in the aperture (R60). -/
def inAperture (p : Params) (i : Input) : Bool :=
  match i with
  | .access (.read addr _) => (apertureOffset p addr).isSome
  | .access (.write addr _ _) => (apertureOffset p addr).isSome
  | _ => true

/-- A safe state of a run: no bus error recorded (R68), no write dropped (R29). -/
abbrev cleanRun (s : State) : Prop := s.hostFault = false ∧ s.ovr = false

end Sys2Proof.Machine
end

