-- ==== Sys2Proof/Certificates/Slice0/Obligations.lean ====
section
/-! DEFINITION. The statements for the provers. `Sys2Proof.Rules` restates the primitives of R10, R111, R141, R160, R163,
R190, R214 and R215 in the spec's own formulas, so that a statement compares the model's meanings with the rules and
not with themselves. -/

namespace Sys2Proof.Rules

open Sys2Proof.Machine

/-! ### The vocabulary of the statements -/

/-- Success bookkeeping (R215): ERR, ERRCODE, LASTOP and BUSY, everything else as before. That the pending latches too stay
as they were is the model's choice (log 7). -/
def succeeded (s : State) : State :=
  { s with err := false, errCode := 0#4, lastOp := s.pendCmd.extractLsb' 0 8, busy := false }

/-- Success with a result r (R215): RES3 to RES0 take r as well. -/
def succeededWith (r : Result) (s : State) : State := { succeeded s with res := r }

/-- Error completion with a code (R214): ERR, ERRCODE, LASTOP and BUSY, everything else as before (R213). -/
def failed (code : BitVec 4) (s : State) : State :=
  { s with err := true, errCode := code, lastOp := s.pendCmd.extractLsb' 0 8, busy := false }

/-- The latched operands as numbers (R93). -/
def a0 (s : State) : Nat := s.pendArg0.toNat
/-- PEND_ARG1 as a number (R93). -/
def a1 (s : State) : Nat := s.pendArg1.toNat
/-- PEND_ARG2 as a number (R93). -/
def a2 (s : State) : Nat := s.pendArg2.toNat

/-- OFF_b (R10). -/
def off (s : State) : BufSel → Nat
  | .buf0 => s.buf0.offset.toNat
  | .buf1 => s.buf1.offset.toNat

/-- LEN_b (R10). -/
def len (s : State) : BufSel → Nat
  | .buf0 => s.buf0.bitLen.toNat
  | .buf1 => s.buf1.bitLen.toNat

/-- `Bit(b, p)` (R10): `(Stor(b, (OFF_b + p) div 8) >> (7 - (OFF_b + p) mod 8)) & 1`. -/
def bitAt (s : State) (b : BufSel) (p : Nat) : Nat :=
  (stor s b ((off s b + p) / 8)).toNat / 2 ^ (7 - (off s b + p) % 8) % 2

/-- `Field(b, p, n)` (R10): the sum over k in [0, n) of `Bit(b, p + k) << (n - 1 - k)`. -/
def fieldAt (s : State) (b : BufSel) (p n : Nat) : Nat :=
  ∑ k ∈ Finset.range n, bitAt s b (p + k) * 2 ^ (n - 1 - k)

/-- `LeField(p, n)` (R141): the sum over k in [0, n/8) of `Field(0, p + 8k, 8) << (8k)`. -/
def leFieldAt (s : State) (p n : Nat) : Nat :=
  ∑ k ∈ Finset.range (n / 8), fieldAt s .buf0 (p + 8 * k) 8 * 2 ^ (8 * k)

/-- The native start of the n-bit field at operand a (R111): `tr_field` when L = 1. -/
def fieldStart (l : Numbering) (s : State) (a n : Nat) : Nat :=
  if l = .lsb0 then len s .buf0 - a - n else a

/-- The signed value s(u, L) (R12). -/
def signed (u n : Nat) : Int := if 2 ^ (n - 1) ≤ u then (u : Int) - 2 ^ n else u

/-- `matches(st, en, ba)` (R190), as a set. -/
def matchSet (s : State) (st en : Nat) (ba : Bool) : Set Nat :=
  { p | st ≤ p ∧ p + len s .buf1 ≤ en ∧ (ba = true → p % 8 = 0) ∧
        ∀ k < len s .buf1, bitAt s .buf0 (p + k) = bitAt s .buf1 k }

/-- The step past a match (R194): 8 in byte-aligned mode, else 1. -/
def stepPast (ba : Bool) : Nat := if ba then 8 else 1

/-- The result of a search that finds nothing (R192). -/
def nothing : Result := 0xFFFFFFFF#128

/-- The registers of buffer b set, the other buffer kept. -/
def withBuffer (s : State) (b : BufSel) (v : Buffer) : State :=
  match b with
  | .buf0 => { s with buf0 := v }
  | .buf1 => { s with buf1 := v }

/-- The storage RAM of buffer b set, the other kept. -/
def withRam (s : State) (b : BufSel) (m : Memory) : State :=
  match b with
  | .buf0 => { s with ram0 := m }
  | .buf1 => { s with ram1 := m }

/-- W = 1 + E + M (R160), from FMTn bits 2:0 and 5:3 (R40). -/
def width (f : BitVec 16) : Nat := 1 + (f.extractLsb' 0 3).toNat + (f.extractLsb' 3 3).toNat

/-- `legal(F)` (R161). -/
def legal (f : BitVec 16) : Prop :=
  1 ≤ (f.extractLsb' 0 3).toNat ∧ (f.extractLsb' 0 3).toNat + (f.extractLsb' 3 3).toNat ≤ 7 ∧
  (f.extractLsb' 8 8).toNat + (f.extractLsb' 3 3).toNat ≤ 150

/-- The sign of a code (R160): `c >> (E + M)`. -/
def signOf (f : BitVec 16) (c : Nat) : Nat :=
  c / 2 ^ ((f.extractLsb' 0 3).toNat + (f.extractLsb' 3 3).toNat)

/-- The exponent field of a code (R160): `(c >> M) & (2^E - 1)`. -/
def expOf (f : BitVec 16) (c : Nat) : Nat := c / 2 ^ (f.extractLsb' 3 3).toNat % 2 ^ (f.extractLsb' 0 3).toNat

/-- The mantissa field of a code (R160): `c & (2^M - 1)`. -/
def mantOf (f : BitVec 16) (c : Nat) : Nat := c % 2 ^ (f.extractLsb' 3 3).toNat

/-- `emax` (R162). -/
def emax (f : BitVec 16) : Nat := 2 ^ (f.extractLsb' 0 3).toNat - 1

/-- `mmax` (R162). -/
def mmax (f : BitVec 16) : Nat := 2 ^ (f.extractLsb' 3 3).toNat - 1

/-- The NaN codes of R162: both all-ones codes under MAXNAN, a full exponent with a mantissa under IEEE, the one code
`2^(W-1)` under P3109, none under NONE. -/
abbrev nanCode (f : BitVec 16) (c : Nat) : Prop :=
  (f.extractLsb' 6 2 = 1#2 ∧ expOf f c = emax f ∧ mantOf f c = mmax f) ∨
  (f.extractLsb' 6 2 = 2#2 ∧ expOf f c = emax f ∧ mantOf f c ≠ 0) ∨
  (f.extractLsb' 6 2 = 3#2 ∧ c = 2 ^ (width f - 1))

/-- The +Inf code of R162, for IEEE and P3109 only. -/
abbrev posInfCode (f : BitVec 16) (c : Nat) : Prop :=
  (f.extractLsb' 6 2 = 2#2 ∧ signOf f c = 0 ∧ expOf f c = emax f ∧ mantOf f c = 0) ∨
  (f.extractLsb' 6 2 = 3#2 ∧ c = 2 ^ (width f - 1) - 1)

/-- The -Inf code of R162, for IEEE and P3109 only. -/
abbrev negInfCode (f : BitVec 16) (c : Nat) : Prop :=
  (f.extractLsb' 6 2 = 2#2 ∧ signOf f c = 1 ∧ expOf f c = emax f ∧ mantOf f c = 0) ∨
  (f.extractLsb' 6 2 = 3#2 ∧ c = 2 ^ width f - 1)

/-- The code decodes through the finite formula (R162, last sentence). -/
abbrev finiteCode (f : BitVec 16) (c : Nat) : Prop := ¬ nanCode f c ∧ ¬ posInfCode f c ∧ ¬ negInfCode f c

/-- `class(F, c)` (R165), from the sets of R162. -/
def classOf (f : BitVec 16) (c : Nat) : Nat :=
  if nanCode f c then 2 else if posInfCode f c ∨ negInfCode f c then 1 else 0

/-- The finite value of a code as an exact number: the last lines of R163, its fields sliced as in R160. -/
def finiteValue (f : BitVec 16) (c : Nat) : ℚ :=
  let M := (f.extractLsb' 3 3).toNat
  let bias : Int := (f.extractLsb' 8 8).toNat
  let sgn : ℚ := if signOf f c = 1 then -1 else 1
  if expOf f c = 0 then sgn * mantOf f c * 2 ^ (1 - bias - M : Int)
  else sgn * (2 ^ M + mantOf f c : ℕ) * 2 ^ (expOf f c - bias - M : Int)

/-- The number a finite binary32 word stands for (R13). -/
def b32Value (w : Word) : ℚ :=
  let sgn : ℚ := if w.getLsbD 31 then -1 else 1
  let ex := (w.extractLsb' 23 8).toNat
  let fr := (w.extractLsb' 0 23).toNat
  if ex = 0 then sgn * fr * 2 ^ (-149 : Int) else sgn * (2 ^ 23 + fr : ℕ) * 2 ^ (ex - 150 : Int)

/-- The 128-bit result of a table read through slot n (R167, R168): `class << 64 | c << 32 | LUT[n][c]`. -/
def tableResult (s : State) (n : Slot) (c : Nat) : Result :=
  BitVec.ofNat 128 (classOf s.fmt[n] c * 2 ^ 64 + c * 2 ^ 32 + (lutWord s n c).toNat)

/-- s with a host access as its next input. -/
def withAccess (s : State) (a : HostAccess) (rest : List Input) : State := { s with inputs := .access a :: rest }

/-- s after the bus has answered an access. -/
def answered (s : State) (r : Response) (rest : List Input) : State :=
  { s with inputs := rest, responses := r :: s.responses }

/-- A 32-bit read at aperture offset a answers v and changes nothing of the block. -/
def reads (s : State) (a : Nat) (v : Word) : Prop :=
  ∀ rest, step (withAccess s (.read (s.params.base + a) .word) rest) = .next (answered s (.data v) rest)

/-- A write at aperture offset a is no bus error and takes the block from s to t. -/
def writes (s : State) (a : Nat) (w : Width) (v : Word) (t : State) : Prop :=
  ∀ rest, ∃ r, r ≠ Response.busError ∧
    step (withAccess s (.write (s.params.base + a) w v) rest) = .next (answered t r rest)

/-- An access of n bytes at aperture offset a that R65, R66 and R67 do not allow. -/
def rejected (p : Params) (a n : Nat) : Prop :=
  (a < 0x1000 ∧ ¬ (n = 4 ∧ a % 4 = 0)) ∨
  (0x1000 ≤ a ∧ a < 0x1000000) ∨
  (0x1000000 ≤ a ∧ a < 0x2000000 ∧ ¬ ((a - 0x1000000) % n = 0 ∧ a - 0x1000000 + n ≤ p.capBytes)) ∨
  (0x2000000 ≤ a ∧ a < 0x3000000 ∧ ¬ ((a - 0x2000000) % n = 0 ∧ a - 0x2000000 + n ≤ p.capBytes)) ∨
  0x3000000 ≤ a

/-- The next input is a host access at a bus address outside [BASE, BASE + 2^26) (R60). -/
def nextIsOutside (s : State) : Prop :=
  ∃ addr w rest,
    (s.inputs = .access (.read addr w) :: rest ∨ ∃ v, s.inputs = .access (.write addr w v) :: rest) ∧
    (addr < s.params.base ∨ s.params.base + 2 ^ 26 ≤ addr)

/-- WIN_b (R66). -/
def win : BufSel → Nat
  | .buf0 => 0x1000000
  | .buf1 => 0x2000000

/-- Bytes of an access (R64). -/
def bytes : Width → Nat
  | .byte => 1
  | .half => 2
  | .word => 4

/-- The positions reported by up to k FINDALL_NEXT commands in a row. -/
def nextPositions : Nat → State → List Nat
  | 0, _ => []
  | k + 1, s =>
    match exec .findallNext s with
    | .next t => if t.found then t.res.toNat :: nextPositions k t else []
    | _ => []

/-- The positions reported by FINDALL_FIRST and up to k FINDALL_NEXT commands. -/
def findallPositions (ba : Bool) (k : Nat) (s : State) : List Nat :=
  match exec (.findallFirst ba) s with
  | .next t => if t.found then t.res.toNat :: nextPositions k t else []
  | _ => []

/-- The three unsigned reads, by byte order (R87). -/
def readUintInstr (e : Endian) (l : Numbering) : Instr :=
  match e with
  | .be => .readUintBe l
  | .le => .readUintLe l
  | .ne => .readUintNe l

/-- The three signed reads, by byte order (R87). -/
def readIntInstr (e : Endian) (l : Numbering) : Instr :=
  match e with
  | .be => .readIntBe l
  | .le => .readIntLe l
  | .ne => .readIntNe l

/-- The unsigned value the field at the operands has in byte order e (R140): `LeField` for le, and for ne on a build with
NATIVE_LE = 1, else `Field`. -/
def fieldIn (e : Endian) (l : Numbering) (s : State) : Nat :=
  if e = .le ∨ (e = .ne ∧ s.params.nativeLe = true) then leFieldAt s (fieldStart l s (a0 s) (a1 s)) (a1 s)
  else fieldAt s .buf0 (fieldStart l s (a0 s) (a1 s)) (a1 s)

/-- The finder's commands. -/
def isFinder : Instr → Bool
  | .find _ | .rfind _ | .findallFirst _ | .findallNext => true
  | _ => false

/-- The commands that construct a buffer. -/
def isConstruction : Instr → Bool
  | .zeros _ | .load _ => true
  | _ => false

/-- FMT_BUILD. -/
def isBuild : Instr → Bool
  | .fmtBuild _ => true
  | _ => false

/-- Two states that differ in storage RAM only, and not in any logical bit of either buffer. -/
def sameLogicalBits (s t : State) : Prop :=
  t = { s with ram0 := t.ram0, ram1 := t.ram1 } ∧
  ∀ b, ∀ p < len s b, bitAt s b p = bitAt t b p

/-- s with other values in PEND_CMD and PEND_ARG0 to PEND_ARG2. -/
def withPend (s : State) (c x y z : Word) : State :=
  { s with pendCmd := c, pendArg0 := x, pendArg1 := y, pendArg2 := z }

end Sys2Proof.Rules

open Sys2Proof Sys2Proof.Machine Sys2Proof.Rules

/-! ### Encoding -/

/-- R98, R100: words written out from the field layout of R86 decode to the instruction they stand for, and the illegal
examples are rejected. -/
def Obligations.ExampleWordsDecode : Prop :=
  decode 0x00001010#32 = .ok (.readUintLe .msb0) ∧
  decode 0x00000211#32 = .ok (.readIntBe .lsb0) ∧
  decode 0x00000430#32 = .ok (.find true) ∧
  decode 0x00000102#32 = .ok (.load .buf1) ∧
  decode 0x00008021#32 = .ok (.nfDecode .msb0 2) ∧
  decode 0x00000A0A#32 = .ok (.extract .lsb0 true) ∧
  decode 0x0000C020#32 = .ok (.fmtBuild 3) ∧
  decode 0x00003010#32 = .error .reservedEnd ∧
  decode 0x00000110#32 = .error .untakenField ∧
  decode 0x00010000#32 = .error .reservedBits ∧
  decode 0x00000003#32 = .error .reservedOp

/-- Every instruction survives encoding and decoding, and every word that decodes is the encoding of what it decodes
to: no bit of a command word is dropped (R86 to R88, R96). -/
def Obligations.DecodeEncodeAgree : Prop :=
  (∀ i : Instr, decode (encode i) = .ok i) ∧
  ∀ (w : Word) (i : Instr), decode w = .ok i → encode i = w

/-- R94: a word decodes exactly when none of the clauses (a) to (d) holds. -/
def Obligations.DecodesExactlyLegalWords : Prop :=
  ∀ w : Word, (∃ i, decode w = .ok i) ↔ wordLegal w = true

/-- R94, R211: a pending word that is illegal completes with ILLEGAL, code 6, and changes nothing else. When the turn comes
(at once with no input waiting, or at an engine turn of the inputs) is the model's schedule (log 2). -/
def Obligations.IllegalWordCompletesWithCodeSix : Prop :=
  ∀ s : State, s.busy = true → wordLegal s.pendCmd = false →
    (s.inputs = [] → step s = .next (failed 6#4 s)) ∧
    ∀ rest, s.inputs = .engineTurn :: rest → step s = .next (failed 6#4 { s with inputs := rest })

/-- The completion step runs the instruction its word decodes to: with no input waiting step is exec at that state, and
an engine turn in the inputs is used up first. It is enabled only while BUSY = 1: with BUSY = 0 the same turns leave the
block as it is, a waiting engine turn used up (R74, R96, R222; the schedule of turns is log 2). -/
def Obligations.StepRunsDecodedInstruction : Prop :=
  (∀ (s : State) (i : Instr), s.busy = true → decode s.pendCmd = .ok i →
    (s.inputs = [] → step s = exec i s) ∧
    ∀ rest, s.inputs = .engineTurn :: rest → step s = exec i { s with inputs := rest }) ∧
  ∀ s : State, s.busy = false →
    (s.inputs = [] → step s = .next s) ∧
    ∀ rest, s.inputs = .engineTurn :: rest → step s = .next { s with inputs := rest }

/-! ### Construction and bit fields -/

/-- R112, whole: NOP's encoding, its bookkeeping, and that only ILLEGAL can arise, for a word other than 0. -/
def Obligations.NopOnlyDoesBookkeeping : Prop :=
  decode 0x00000000#32 = .ok .nop ∧
  (∀ w : Word, w.extractLsb' 0 8 = 0#8 → w ≠ 0#32 → ∃ e, decode w = .error e) ∧
  ∀ s : State, exec .nop s = .next (succeeded s)

/-- R113, whole: CREATION above capacity; else bytes 0 to ceil(n/8) - 1 of the buffer are 0, every other byte of both
RAMs reads as before, the buffer's registers are (0, n, ceil(n/8)), ACTIVE is 0 and nothing else changes. -/
def Obligations.ZerosConstructsZeroBuffer : Prop :=
  (decode 0x00000001#32 = .ok (.zeros .buf0) ∧ decode 0x00000101#32 = .ok (.zeros .buf1)) ∧
  ∀ (b : BufSel) (s : State),
    (8 * s.params.capBytes < a0 s → exec (.zeros b) s = .next (failed 1#4 s)) ∧
    (a0 s ≤ 8 * s.params.capBytes →
      ∃ m t, exec (.zeros b) s = .next t ∧
        t = withRam
          (withBuffer { succeeded s with faActive := false } b ⟨0#3, s.pendArg0, BitVec.ofNat 32 ((a0 s + 7) / 8)⟩) b m ∧
        ∀ b' i, stor t b' i = if b' = b ∧ i < (a0 s + 7) / 8 then 0#8 else stor s b' i)

/-- R114, whole: CREATION in its three cases; else the buffer's registers, the canonical empty buffer for length 0,
ACTIVE is 0, and nothing else changes (no byte of storage). -/
def Obligations.LoadDeclaresBuffer : Prop :=
  (decode 0x00000002#32 = .ok (.load .buf0) ∧ decode 0x00000102#32 = .ok (.load .buf1)) ∧
  ∀ (b : BufSel) (s : State),
    ((s.params.capBytes < a2 s ∨ 8 ≤ a0 s ∨ 8 * a2 s < a0 s + a1 s) →
      exec (.load b) s = .next (failed 1#4 s)) ∧
    (a2 s ≤ s.params.capBytes → a0 s < 8 → a0 s + a1 s ≤ 8 * a2 s →
      exec (.load b) s = .next (withBuffer { succeeded s with faActive := false } b
        (if a1 s = 0 then ⟨0#3, 0#32, 0#32⟩
         else ⟨BitVec.ofNat 3 (a0 s), s.pendArg1, BitVec.ofNat 32 ((a0 s + a1 s + 7) / 8)⟩)))

/-- R115, whole: INDEX at or past the end; else RES is the bit at the native position, and nothing else changes. -/
def Obligations.GetBitReadsOneBit : Prop :=
  (decode 0x00000008#32 = .ok (.getBit .msb0) ∧ decode 0x00000208#32 = .ok (.getBit .lsb0)) ∧
  ∀ (l : Numbering) (s : State),
    (len s .buf0 ≤ a0 s → exec (.getBit l) s = .next (failed 5#4 s)) ∧
    (a0 s < len s .buf0 → exec (.getBit l) s = .next (succeededWith
      (BitVec.ofNat 128 (bitAt s .buf0 (if l = .lsb0 then len s .buf0 - a0 s - 1 else a0 s))) s))

/-- R116, whole: INDEX for a bad range; else RES0 is the first byte index and RES1 the count of the enclosing span of the
native range, and nothing else changes; in a well-formed buffer the span lies inside the buffer's bytes. -/
def Obligations.GetByteRangeGivesSpan : Prop :=
  (decode 0x00000009#32 = .ok (.getByteRange .msb0) ∧ decode 0x00000209#32 = .ok (.getByteRange .lsb0)) ∧
  ∀ (l : Numbering) (s : State),
    ((a1 s < a0 s ∨ len s .buf0 < a1 s) → exec (.getByteRange l) s = .next (failed 5#4 s)) ∧
    (a0 s ≤ a1 s → a1 s ≤ len s .buf0 →
      ∃ ns ne first count,
        ns = (if l = .lsb0 then len s .buf0 - a1 s else a0 s) ∧
        ne = (if l = .lsb0 then len s .buf0 - a0 s else a1 s) ∧
        first = (off s .buf0 + ns) / 8 ∧
        count = (if ns = ne then 0 else (off s .buf0 + ne + 7) / 8 - first) ∧
        exec (.getByteRange l) s = .next (succeededWith (BitVec.ofNat 128 (count * 2 ^ 32 + first)) s) ∧
        (bufferWf s.params s.buf0 → first + count ≤ s.buf0.nBytes.toNat))

/-- R117, whole: INTERPRET above 128 bits, then INDEX past the end; else RES is the field, shifted up to the byte
boundary with P = 1, and nothing else changes. -/
def Obligations.ExtractPadsFieldWithZeros : Prop :=
  (decode 0x0000000A#32 = .ok (.extract .msb0 false) ∧ decode 0x0000080A#32 = .ok (.extract .msb0 true) ∧
    decode 0x0000020A#32 = .ok (.extract .lsb0 false) ∧ decode 0x00000A0A#32 = .ok (.extract .lsb0 true)) ∧
  ∀ (l : Numbering) (pad : Bool) (s : State),
    (128 < a1 s → exec (.extract l pad) s = .next (failed 2#4 s)) ∧
    (a1 s ≤ 128 → len s .buf0 < a0 s + a1 s → exec (.extract l pad) s = .next (failed 5#4 s)) ∧
    (a1 s ≤ 128 → a0 s + a1 s ≤ len s .buf0 →
      exec (.extract l pad) s = .next (succeededWith
        (BitVec.ofNat 128 (fieldAt s .buf0 (fieldStart l s (a0 s) (a1 s)) (a1 s) *
          (if pad then 2 ^ (8 * ((a1 s + 7) / 8) - a1 s) else 1))) s))

/-- R119, whole: the translations undo themselves, and GET_BIT.L at LEN - 1 - i reads the bit GET_BIT reads at i. -/
def Obligations.ReversedNumberingIsSymmetric : Prop :=
  (∀ n i, i < n → trIndex n (trIndex n i) = i) ∧
  (∀ n a e, a ≤ e → e ≤ n → trRange n (trRange n a e).1 (trRange n a e).2 = (a, e)) ∧
  ∀ (s : State) (i : Nat), i < len s .buf0 →
    ∃ r : Result,
      exec (.getBit .msb0) { s with pendArg0 := BitVec.ofNat 32 i } =
        .next (succeededWith r { s with pendArg0 := BitVec.ofNat 32 i }) ∧
      exec (.getBit .lsb0) { s with pendArg0 := BitVec.ofNat 32 (len s .buf0 - 1 - i) } =
        .next (succeededWith r { s with pendArg0 := BitVec.ofNat 32 (len s .buf0 - 1 - i) })

/-! ### Integer codec -/

/-- R142 to R144, whole: the unsigned reads raise INTERPRET, BYTE_ALIGN (le and ne only, on either build) and INDEX in that
order; else RES is the field in its byte order, and nothing else changes. -/
def Obligations.UnsignedReadsReturnField : Prop :=
  (decode 0x00000010#32 = .ok (.readUintBe .msb0) ∧ decode 0x00000210#32 = .ok (.readUintBe .lsb0) ∧
    decode 0x00001010#32 = .ok (.readUintLe .msb0) ∧ decode 0x00001210#32 = .ok (.readUintLe .lsb0) ∧
    decode 0x00002010#32 = .ok (.readUintNe .msb0) ∧ decode 0x00002210#32 = .ok (.readUintNe .lsb0)) ∧
  ∀ (e : Endian) (l : Numbering) (s : State),
    ((a1 s = 0 ∨ 128 < a1 s) → exec (readUintInstr e l) s = .next (failed 2#4 s)) ∧
    (1 ≤ a1 s → a1 s ≤ 128 → e ≠ .be → a1 s % 8 ≠ 0 → exec (readUintInstr e l) s = .next (failed 4#4 s)) ∧
    (1 ≤ a1 s → a1 s ≤ 128 → (e = .be ∨ a1 s % 8 = 0) → len s .buf0 < a0 s + a1 s →
      exec (readUintInstr e l) s = .next (failed 5#4 s)) ∧
    (1 ≤ a1 s → a1 s ≤ 128 → (e = .be ∨ a1 s % 8 = 0) → a0 s + a1 s ≤ len s .buf0 →
      exec (readUintInstr e l) s = .next (succeededWith (BitVec.ofNat 128 (fieldIn e l s)) s))

/-- R145 to R147, whole: the signed reads have the unsigned reads' errors; else RES is the two's-complement value of the
field in its byte order, sign-extended to 128 bits, and nothing else changes. -/
def Obligations.SignedReadsSignExtendField : Prop :=
  (decode 0x00000011#32 = .ok (.readIntBe .msb0) ∧ decode 0x00000211#32 = .ok (.readIntBe .lsb0) ∧
    decode 0x00001011#32 = .ok (.readIntLe .msb0) ∧ decode 0x00001211#32 = .ok (.readIntLe .lsb0) ∧
    decode 0x00002011#32 = .ok (.readIntNe .msb0) ∧ decode 0x00002211#32 = .ok (.readIntNe .lsb0)) ∧
  ∀ (e : Endian) (l : Numbering) (s : State),
    ((a1 s = 0 ∨ 128 < a1 s) → exec (readIntInstr e l) s = .next (failed 2#4 s)) ∧
    (1 ≤ a1 s → a1 s ≤ 128 → e ≠ .be → a1 s % 8 ≠ 0 → exec (readIntInstr e l) s = .next (failed 4#4 s)) ∧
    (1 ≤ a1 s → a1 s ≤ 128 → (e = .be ∨ a1 s % 8 = 0) → len s .buf0 < a0 s + a1 s →
      exec (readIntInstr e l) s = .next (failed 5#4 s)) ∧
    (1 ≤ a1 s → a1 s ≤ 128 → (e = .be ∨ a1 s % 8 = 0) → a0 s + a1 s ≤ len s .buf0 →
      exec (readIntInstr e l) s = .next (succeededWith (BitVec.ofInt 128 (signed (fieldIn e l s) (a1 s))) s))

/-- R148: every successful integer read gives a number of its width: [0, 2^n) unsigned, [-2^(n-1), 2^(n-1) - 1] signed,
both ends included. -/
def Obligations.IntegerReadsStayInRange : Prop :=
  ∀ (e : Endian) (l : Numbering) (s : State), 1 ≤ a1 s → a1 s ≤ 128 → (e = .be ∨ a1 s % 8 = 0) →
    a0 s + a1 s ≤ len s .buf0 →
    ∃ t u, exec (readUintInstr e l) s = .next t ∧ t.res.toNat < 2 ^ a1 s ∧
      exec (readIntInstr e l) s = .next u ∧
      -2 ^ (a1 s - 1) ≤ u.res.toInt ∧ u.res.toInt ≤ 2 ^ (a1 s - 1) - 1

/-- R149, whole: READ_UINT_LE and READ_INT_LE of a field equal READ_UINT_BE and READ_INT_BE of a field that holds the
same bytes in the opposite order. -/
def Obligations.LittleEndianIsByteReversal : Prop :=
  ∀ s s' : State, 1 ≤ a1 s → a1 s ≤ 128 → a1 s % 8 = 0 → a1 s' = a1 s →
    a0 s + a1 s ≤ len s .buf0 → a0 s' + a1 s' ≤ len s' .buf0 →
    (∀ k < a1 s / 8, fieldAt s .buf0 (a0 s + 8 * k) 8 = fieldAt s' .buf0 (a0 s' + 8 * (a1 s / 8 - 1 - k)) 8) →
    ∃ t t' u u', exec (.readUintLe .msb0) s = .next t ∧ exec (.readUintBe .msb0) s' = .next t' ∧ t.res = t'.res ∧
      exec (.readIntLe .msb0) s = .next u ∧ exec (.readIntBe .msb0) s' = .next u' ∧ u.res = u'.res

/-- R150, whole: a value stored as its n bits, most significant first, at any position of BUF0 reads back, unsigned and
signed. -/
def Obligations.StoredIntegerReadsBack : Prop :=
  ∀ (s : State) (v : Nat), 1 ≤ a1 s → a1 s ≤ 128 → v < 2 ^ a1 s → a0 s + a1 s ≤ len s .buf0 →
    (∀ k < a1 s, bitAt s .buf0 (a0 s + k) = v / 2 ^ (a1 s - 1 - k) % 2) →
    ∃ t u, exec (.readUintBe .msb0) s = .next t ∧ t.res.toNat = v ∧
      exec (.readIntBe .msb0) s = .next u ∧ u.res.toInt = signed v (a1 s)

/-! ### Narrow floats -/

/-- R166: INTERPRET for an illegal descriptor; else every code below 2^W of the slot's table holds the closed form,
every other entry of every table reads as before, FMT_VALID[n] is 1 and the others are kept, and nothing else changes. -/
def Obligations.FmtBuildFillsTable : Prop :=
  (decode 0x00000020#32 = .ok (.fmtBuild 0) ∧ decode 0x00004020#32 = .ok (.fmtBuild 1) ∧
    decode 0x00008020#32 = .ok (.fmtBuild 2) ∧ decode 0x0000C020#32 = .ok (.fmtBuild 3)) ∧
  ∀ (n : Slot) (s : State),
    (¬ legal s.fmt[n] → exec (.fmtBuild n) s = .next (failed 2#4 s)) ∧
    (legal s.fmt[n] → ∃ t, exec (.fmtBuild n) s = .next t ∧
      t = { succeeded s with lut := t.lut, fmtValid := t.fmtValid } ∧
      (∀ m : Slot, isFmtValid t m = (decide (m = n) || isFmtValid s m)) ∧
      ∀ (m : Slot) (c : Nat), lutWord t m c =
        if m = n ∧ c < 2 ^ width s.fmt[n] then toB32 (decodeValue s.fmt[n] c) else lutWord s m c)

/-- R167, whole: INTERPRET on a slot not built, then INDEX past the end; else RES is class, code and table entry of the
W-bit field, and nothing else changes. -/
def Obligations.NfDecodeReadsTable : Prop :=
  (decode 0x00000021#32 = .ok (.nfDecode .msb0 0) ∧ decode 0x00004221#32 = .ok (.nfDecode .lsb0 1)) ∧
  ∀ (l : Numbering) (n : Slot) (s : State),
    (isFmtValid s n = false → exec (.nfDecode l n) s = .next (failed 2#4 s)) ∧
    (isFmtValid s n = true → len s .buf0 < a0 s + width s.fmt[n] →
      exec (.nfDecode l n) s = .next (failed 5#4 s)) ∧
    (isFmtValid s n = true → a0 s + width s.fmt[n] ≤ len s .buf0 →
      exec (.nfDecode l n) s = .next (succeededWith
        (tableResult s n (fieldAt s .buf0 (fieldStart l s (a0 s) (width s.fmt[n])) (width s.fmt[n]))) s))

/-- R168, whole: INTERPRET on a slot not built, then INDEX for a code outside the table; else RES is class, code and
table entry, and nothing else changes. -/
def Obligations.NfLookupReadsTable : Prop :=
  decode 0x00000022#32 = .ok (.nfLookup 0) ∧
  ∀ (n : Slot) (s : State),
    (isFmtValid s n = false → exec (.nfLookup n) s = .next (failed 2#4 s)) ∧
    (isFmtValid s n = true → 2 ^ width s.fmt[n] ≤ a0 s → exec (.nfLookup n) s = .next (failed 5#4 s)) ∧
    (isFmtValid s n = true → a0 s < 2 ^ width s.fmt[n] →
      exec (.nfLookup n) s = .next (succeededWith (tableResult s n (a0 s)) s))

/-- R161, R163, R164: for a legal descriptor the binary32 word of every finite code stands for exactly the number of the
closed form, its bit 31 is the code's sign (so a zero code with sign 1 gives 0x80000000), and it is a finite binary32
word. No rounding happens anywhere in decode. -/
def Obligations.NarrowDecodeIsExact : Prop :=
  ∀ (f : BitVec 16) (c : Nat), legal f → c < 2 ^ width f → finiteCode f c →
    b32Value (toB32 (decodeValue f c)) = finiteValue f c ∧
    (toB32 (decodeValue f c)).getLsbD 31 = decide (signOf f c = 1) ∧
    (toB32 (decodeValue f c)).extractLsb' 23 8 ≠ 255#8

/-- R162, R164, R165: for a legal descriptor the class is 2 on exactly the NaN codes of the table of R162 and 1 on exactly
its two infinite codes; exactly the NaN codes give the word 0x7FC00000, exactly the +Inf code 0x7F800000 and exactly the
-Inf code 0xFF800000; and bit 31 of the word is the code's sign for every code that is not a NaN. -/
def Obligations.ClassTellsSpecialWords : Prop :=
  ∀ (f : BitVec 16) (c : Nat), legal f → c < 2 ^ width f →
    (codeClass f c = 2 ↔ nanCode f c) ∧
    (codeClass f c = 1 ↔ posInfCode f c ∨ negInfCode f c) ∧
    (codeClass f c = 0 ↔ finiteCode f c) ∧
    (toB32 (decodeValue f c) = 0x7FC00000#32 ↔ nanCode f c) ∧
    (toB32 (decodeValue f c) = 0x7F800000#32 ↔ posInfCode f c) ∧
    (toB32 (decodeValue f c) = 0xFF800000#32 ↔ negInfCode f c) ∧
    (¬ nanCode f c → (toB32 (decodeValue f c)).getLsbD 31 = decide (signOf f c = 1))

/-! ### Searcher -/

/-- R192, whole: VALUE, then INDEX; else FOUND and RES give the least match, and nothing else changes. -/
def Obligations.FindReturnsLeastMatch : Prop :=
  (decode 0x00000030#32 = .ok (.find false) ∧ decode 0x00000430#32 = .ok (.find true)) ∧
  ∀ (ba : Bool) (s : State),
    (len s .buf1 = 0 → exec (.find ba) s = .next (failed 7#4 s)) ∧
    (len s .buf1 ≠ 0 → (a1 s < a0 s ∨ len s .buf0 < a1 s) → exec (.find ba) s = .next (failed 5#4 s)) ∧
    (len s .buf1 ≠ 0 → a0 s ≤ a1 s → a1 s ≤ len s .buf0 →
      (matchSet s (a0 s) (a1 s) ba = ∅ →
        exec (.find ba) s = .next (succeededWith nothing { s with found := false })) ∧
      ∀ p, IsLeast (matchSet s (a0 s) (a1 s) ba) p →
        exec (.find ba) s = .next (succeededWith (BitVec.ofNat 128 p) { s with found := true }))

/-- R193, whole: as R192 with the greatest match. -/
def Obligations.RfindReturnsGreatestMatch : Prop :=
  (decode 0x00000031#32 = .ok (.rfind false) ∧ decode 0x00000431#32 = .ok (.rfind true)) ∧
  ∀ (ba : Bool) (s : State),
    (len s .buf1 = 0 → exec (.rfind ba) s = .next (failed 7#4 s)) ∧
    (len s .buf1 ≠ 0 → (a1 s < a0 s ∨ len s .buf0 < a1 s) → exec (.rfind ba) s = .next (failed 5#4 s)) ∧
    (len s .buf1 ≠ 0 → a0 s ≤ a1 s → a1 s ≤ len s .buf0 →
      (matchSet s (a0 s) (a1 s) ba = ∅ →
        exec (.rfind ba) s = .next (succeededWith nothing { s with found := false })) ∧
      ∀ p, IsGreatest (matchSet s (a0 s) (a1 s) ba) p →
        exec (.rfind ba) s = .next (succeededWith (BitVec.ofNat 128 p) { s with found := true }))

/-- R194, whole: FIND's errors, with the iterator kept; else the iterator starts at the least match, or is inactive when
there is none, and nothing else changes. -/
def Obligations.FindallFirstStartsIterator : Prop :=
  (decode 0x00000032#32 = .ok (.findallFirst false) ∧ decode 0x00000432#32 = .ok (.findallFirst true)) ∧
  ∀ (ba : Bool) (s : State),
    (len s .buf1 = 0 → exec (.findallFirst ba) s = .next (failed 7#4 s)) ∧
    (len s .buf1 ≠ 0 → (a1 s < a0 s ∨ len s .buf0 < a1 s) → exec (.findallFirst ba) s = .next (failed 5#4 s)) ∧
    (len s .buf1 ≠ 0 → a0 s ≤ a1 s → a1 s ≤ len s .buf0 →
      (matchSet s (a0 s) (a1 s) ba = ∅ →
        exec (.findallFirst ba) s = .next (succeededWith nothing
          { s with faNext := s.pendArg1, faEnd := s.pendArg1, faBa := ba, faActive := false, found := false })) ∧
      ∀ p, IsLeast (matchSet s (a0 s) (a1 s) ba) p →
        exec (.findallFirst ba) s = .next (succeededWith (BitVec.ofNat 128 p)
          { s with faNext := BitVec.ofNat 32 (p + stepPast ba), faEnd := s.pendArg1, faBa := ba, faActive := true,
                   found := true }))

/-- R195, whole: only ILLEGAL can arise; an inactive iterator finds nothing and stays as it is; an active one gives the least match from FA_NEXT on and
steps past it, or ends; nothing else changes. -/
def Obligations.FindallNextAdvancesIterator : Prop :=
  decode 0x00000033#32 = .ok .findallNext ∧
  (∀ w : Word, w.extractLsb' 0 8 = 0x33#8 → w ≠ 0x33#32 → ∃ e, decode w = .error e) ∧
  ∀ s : State,
    (s.faActive = false → exec .findallNext s = .next (succeededWith nothing { s with found := false })) ∧
    (s.faActive = true → matchSet s s.faNext.toNat s.faEnd.toNat s.faBa = ∅ →
      exec .findallNext s = .next (succeededWith nothing
        { s with faNext := s.faEnd, faActive := false, found := false })) ∧
    (s.faActive = true → ∀ p, IsLeast (matchSet s s.faNext.toNat s.faEnd.toNat s.faBa) p →
      exec .findallNext s = .next (succeededWith (BitVec.ofNat 128 p)
        { s with faNext := BitVec.ofNat 32 (p + stepPast s.faBa), found := true }))

/-- R197: FINDALL_FIRST and then FINDALL_NEXT, issued often enough, report exactly the elements of
`matches(start, end, BA)`, each once and in increasing order. -/
def Obligations.FindallEnumeratesEveryMatch : Prop :=
  ∀ (ba : Bool) (s : State) (k : Nat), s.params.wf = true → bufferWf s.params s.buf0 →
    len s .buf1 ≠ 0 → a0 s ≤ a1 s → a1 s ≤ len s .buf0 → a1 s ≤ k →
    (findallPositions ba k s).Pairwise (· < ·) ∧
    ∀ p, p ∈ findallPositions ba k s ↔ p ∈ matchSet s (a0 s) (a1 s) ba

/-! ### Completion, errors, frames over every command -/

/-- Every command completes (R44, R216): exec gives a next state with BUSY = 0 and LASTOP the pending word's OP, and
either the success fields or the error fields of STATUS (R27, R31). -/
def Obligations.EveryCommandCompletes : Prop :=
  ∀ (i : Instr) (s : State), ∃ t, exec i s = .next t ∧ t.busy = false ∧ t.lastOp = s.pendCmd.extractLsb' 0 8 ∧
    ((t.err = false ∧ t.errCode = 0#4) ∨ (t.err = true ∧ t.errCode ∈ [1#4, 2#4, 4#4, 5#4, 7#4]))

/-- R213: a command that raises an error leaves every piece of state as it was, except what R214 writes; so does the
completion of any word, decoded or not. -/
def Obligations.ErrorsArePrecise : Prop :=
  (∀ (i : Instr) (s t : State), exec i s = .next t → t.err = true → t = failed t.errCode s) ∧
  ∀ s t : State, completionStep s = .next t → t.err = true → t = failed t.errCode s

/-- What no command ever writes: the parameters (R45), CMD (R33), ARG0 to ARG2 (R34), OVR (R29), FMT0 to FMT3 (R40), the
pending latches, and the host's side. That a success completion leaves the pending latches as they were is the model's
choice (I16; log 7). powerOns, draws, hostFault, responses and inputs are the model's own fields. -/
def Obligations.CommandsKeepHostRegisters : Prop :=
  ∀ (i : Instr) (s t : State), exec i s = .next t →
    t.params = s.params ∧ t.cmd = s.cmd ∧ t.arg0 = s.arg0 ∧ t.arg1 = s.arg1 ∧ t.arg2 = s.arg2 ∧ t.ovr = s.ovr ∧
    t.fmt = s.fmt ∧ t.pendCmd = s.pendCmd ∧ t.pendArg0 = s.pendArg0 ∧ t.pendArg1 = s.pendArg1 ∧
    t.pendArg2 = s.pendArg2 ∧ t.powerOns = s.powerOns ∧ t.draws = s.draws ∧ t.hostFault = s.hostFault ∧
    t.responses = s.responses ∧ t.inputs = s.inputs

/-- Which commands write which state: only ZEROS changes a byte of storage (R38), only ZEROS and LOAD the buffer registers
(R36), only they and the finder the iterator (R39), only the finder FOUND (R28), only FMT_BUILD a table or FMT_VALID (R30,
R41, R166: that it writes its table, against the letter of R118's first sentence, is log 16); NOP, ZEROS, LOAD and
FMT_BUILD keep RES (R35). -/
def Obligations.EachFamilyWritesOnlyItsState : Prop :=
  ∀ (i : Instr) (s t : State), exec i s = .next t →
    ((∀ b, i ≠ .zeros b) → t.ram0 = s.ram0 ∧ t.ram1 = s.ram1) ∧
    (isConstruction i = false → t.buf0 = s.buf0 ∧ t.buf1 = s.buf1) ∧
    (isConstruction i = false → isFinder i = false → t.faActive = s.faActive) ∧
    (isFinder i = false → t.faNext = s.faNext ∧ t.faEnd = s.faEnd ∧ t.faBa = s.faBa ∧ t.found = s.found) ∧
    (isBuild i = false → t.lut = s.lut ∧ t.fmtValid = s.fmtValid) ∧
    (i = .nop ∨ isConstruction i = true ∨ isBuild i = true → t.res = s.res)

/-- R34, R75: a command works on the operands latched at acceptance: other values in ARG0 to ARG2 change nothing else. -/
def Obligations.CommandsUseLatchedOperands : Prop :=
  ∀ (i : Instr) (s : State) (x y z : Word), ∃ t, exec i s = .next t ∧
    exec i { s with arg0 := x, arg1 := y, arg2 := z } = .next { t with arg0 := x, arg1 := y, arg2 := z }

/-- R38: no command's result depends on storage bits outside the logical bits: on two states that agree on all but such
bits, every command completes and leaves states that agree on all but storage. -/
def Obligations.BitsOutsideBuffersAreInvisible : Prop :=
  ∀ (i : Instr) (s t : State), sameLogicalBits s t → iteratorWf s →
    ∃ s' t', exec i s = .next s' ∧ exec i t = .next t' ∧ t' = { s' with ram0 := t'.ram0, ram1 := t'.ram1 }

/-! ### The host's accesses -/

/-- R33 and R245, whole: a CMD write is accepted while BUSY = 0, the word and the operands latched in one step; while
BUSY = 1 it is dropped and sets OVR, and the pending command stays; a read gives the last accepted word, 0 after
reset. -/
def Obligations.CmdWriteIsAcceptedOnlyWhenIdle : Prop :=
  (∀ (s : State) (v : Word),
    (s.busy = false → writes s 0x014 .word v
      { s with pendCmd := v, pendArg0 := s.arg0, pendArg1 := s.arg1, pendArg2 := s.arg2, cmd := v, busy := true }) ∧
    (s.busy = true → writes s 0x014 .word v { s with ovr := true }) ∧
    reads s 0x014 s.cmd) ∧
  State.reset.cmd = 0#32

/-- R34, the host's side: an ARGn write stores the value whatever BUSY is, and a read returns it. -/
def Obligations.ArgWritesAreAlwaysAccepted : Prop :=
  ∀ (s : State) (v : Word),
    writes s 0x018 .word v { s with arg0 := v } ∧ reads s 0x018 s.arg0 ∧
    writes s 0x01C .word v { s with arg1 := v } ∧ reads s 0x01C s.arg1 ∧
    writes s 0x020 .word v { s with arg2 := v } ∧ reads s 0x020 s.arg2

/-- R246, whole, with the accepted write of R40: while BUSY = 1 an FMTn write is dropped and sets OVR; while BUSY = 0 it
stores bits 15:0, clears FMT_VALID[n] even for the same value, and keeps the other slots and every table. -/
def Obligations.FmtWriteInvalidatesSlot : Prop :=
  ∀ (s : State) (n : Slot) (v : Word),
    (s.busy = true → writes s (0x080 + 4 * n.val) .word v { s with ovr := true }) ∧
    (s.busy = false → ∃ t, writes s (0x080 + 4 * n.val) .word v t ∧
      t = { s with fmt := t.fmt, fmtValid := t.fmtValid } ∧
      (∀ m : Slot, t.fmt[m] = if m = n then v.extractLsb' 0 16 else s.fmt[m]) ∧
      ∀ m : Slot, isFmtValid t m = (decide (m ≠ n) && isFmtValid s m))

/-- R43, whole, with R42 for the unnamed offsets: a write to a read-only register or to a reserved offset is ignored; it
raises no error and does not set OVR. -/
def Obligations.ReadOnlyWritesAreIgnored : Prop :=
  ∀ (s : State) (a : Nat) (v : Word), a < 0x1000 → a % 4 = 0 →
    a ∉ [0x010, 0x014, 0x018, 0x01C, 0x020, 0x080, 0x084, 0x088, 0x08C] → writes s a .word v s

/-- R22 to R25, R32 to R36, R39, R40, R42: what every register of the map reads as, each field at its place, and 0 at CTRL
and at an offset that names no register. -/
def Obligations.RegisterReadsShowFields : Prop :=
  ∀ s : State,
    reads s 0x000 0x42465831#32 ∧
    reads s 0x004 (if s.params.nativeLe then 0x1041#32 else 0x1040#32) ∧
    reads s 0x008 (BitVec.ofNat 32 s.params.capBytes) ∧
    reads s 0x00C (BitVec.ofNat 32 (s.busy.toNat + 2 * s.err.toNat + 4 * s.found.toNat + 8 * s.ovr.toNat +
      2 ^ 4 * s.fmtValid.toNat + 2 ^ 8 * s.errCode.toNat + 2 ^ 16 * s.lastOp.toNat)) ∧
    reads s 0x010 0#32 ∧ reads s 0x014 s.cmd ∧
    reads s 0x018 s.arg0 ∧ reads s 0x01C s.arg1 ∧ reads s 0x020 s.arg2 ∧
    (∀ k < 4, reads s (0x030 + 4 * k) (BitVec.ofNat 32 (s.res.toNat / 2 ^ (32 * k)))) ∧
    reads s 0x040 (BitVec.ofNat 32 s.buf0.offset.toNat) ∧ reads s 0x044 s.buf0.bitLen ∧ reads s 0x048 s.buf0.nBytes ∧
    reads s 0x050 (BitVec.ofNat 32 s.buf1.offset.toNat) ∧ reads s 0x054 s.buf1.bitLen ∧ reads s 0x058 s.buf1.nBytes ∧
    reads s 0x060 s.faNext ∧ reads s 0x064 s.faEnd ∧
    reads s 0x068 (BitVec.ofNat 32 (s.faBa.toNat + 2 * s.faActive.toNat)) ∧
    (∀ n : Slot, reads s (0x080 + 4 * n.val) (BitVec.ofNat 32 s.fmt[n].toNat)) ∧
    ∀ a, a < 0x1000 → a % 4 = 0 →
      (a ∈ [0x024, 0x028, 0x02C, 0x04C, 0x05C, 0x06C, 0x070, 0x074, 0x078, 0x07C] ∨ 0x08C < a) → reads s a 0#32

/-- R32 and R237, whole: a CTRL write with SOFT_RESET = 1 gives every register its reset value, cancels the pending
command and keeps storage and LUT RAM, whatever BUSY and CLR_OVR are; without it CLR_OVR clears OVR alone; CTRL reads
0. Nothing is said of the pending latches, which no host can see (R46). -/
def Obligations.CtrlWriteResetsOrClearsOvr : Prop :=
  ∀ (s : State) (v : Word),
    (v.getLsbD 0 = true → ∃ t, writes s 0x010 .word v t ∧
      t = { s with
        busy := false, err := false, found := false, ovr := false, fmtValid := 0#4, errCode := 0#4, lastOp := 0#8,
        cmd := 0#32, arg0 := 0#32, arg1 := 0#32, arg2 := 0#32, res := 0#128,
        buf0 := ⟨0#3, 0#32, 0#32⟩, buf1 := ⟨0#3, 0#32, 0#32⟩,
        faNext := 0#32, faEnd := 0#32, faBa := false, faActive := false,
        fmt := #v[0#16, 0#16, 0#16, 0#16],
        pendCmd := t.pendCmd, pendArg0 := t.pendArg0, pendArg1 := t.pendArg1, pendArg2 := t.pendArg2 }) ∧
    (v.getLsbD 0 = false → v.getLsbD 1 = true → writes s 0x010 .word v { s with ovr := false }) ∧
    (v.getLsbD 0 = false → v.getLsbD 1 = false → writes s 0x010 .word v s) ∧
    reads s 0x010 0#32

/-- R247, whole, with the accepted write of R66: while BUSY = 1 a legal window write is dropped and sets OVR; while
BUSY = 0 it stores the bytes of the value, the least significant at the lowest index, changes no other byte and nothing
else. -/
def Obligations.WindowWriteStoresLittleEndianBytes : Prop :=
  ∀ (s : State) (b : BufSel) (i : Nat) (w : Width) (v : Word), s.params.wf = true →
    i % bytes w = 0 → i + bytes w ≤ s.params.capBytes →
    (s.busy = true → writes s (win b + i) w v { s with ovr := true }) ∧
    (s.busy = false → ∃ m, writes s (win b + i) w v (withRam s b m) ∧
      ∀ b' j, stor (withRam s b m) b' j =
        if b' = b ∧ i ≤ j ∧ j < i + bytes w then v.extractLsb' (8 * (j - i)) 8 else stor s b' j)

/-- R66, R248: a legal window read returns the stored bytes, the byte at the lowest index least significant, and changes
nothing; while a ZEROS of that buffer is pending it completes with some value (a fresh one, log 6). -/
def Obligations.WindowReadReturnsStoredBytes : Prop :=
  ∀ (s : State) (b : BufSel) (i : Nat) (w : Width) (rest : List Input), s.params.wf = true →
    i % bytes w = 0 → i + bytes w ≤ s.params.capBytes →
    (¬ (s.busy = true ∧ decode s.pendCmd = .ok (.zeros b)) →
      step (withAccess s (.read (s.params.base + (win b + i)) w) rest) = .next (answered s
        (.data (BitVec.ofNat 32 (∑ j ∈ Finset.range (bytes w), (stor s b (i + j)).toNat * 2 ^ (8 * j)))) rest)) ∧
    (s.busy = true → decode s.pendCmd = .ok (.zeros b) →
      ∃ v, step (withAccess s (.read (s.params.base + (win b + i)) w) rest) =
        .next (answered { s with draws := s.draws + 1 } (.data v) rest))

/-- R65 to R68: an access the map does not allow changes no state of the block, sets neither ERR nor OVR, returns no
data, and is recorded as a fault of the host that nothing clears (the record's form: log 9). That an illegal window write
sets no OVR while BUSY = 1 too is log 11. -/
def Obligations.RejectedAccessChangesNothing : Prop :=
  (∀ (s : State) (a : Nat) (w : Width) (v : Word) (rest : List Input), a < 0x4000000 →
    rejected s.params a (bytes w) →
    step (withAccess s (.read (s.params.base + a) w) rest) =
      .next (answered { s with hostFault := true } .busError rest) ∧
    step (withAccess s (.write (s.params.base + a) w v) rest) =
      .next (answered { s with hostFault := true } .busError rest)) ∧
  ∀ s t : State, s.hostFault = true → step s = .next t → t.hostFault = true

/-- The machine stops, by name, at exactly the host accesses whose bus address is outside the aperture (R60), and no other
step stops. That such an access stops the machine is the model's choice (log 10). -/
def Obligations.OnlyAccessesOutsideApertureStop : Prop :=
  ∀ s : State,
    (step s = .fault .outsideAperture ↔ nextIsOutside s) ∧
    (¬ nextIsOutside s → ∃ t, step s = .next t)

/-- R72: a host read changes nothing of the block, whatever it reads: only the host's own record changes. -/
def Obligations.HostReadsHaveNoSideEffects : Prop :=
  ∀ (s t : State) (addr : Nat) (w : Width) (rest : List Input),
    step (withAccess s (.read addr w) rest) = .next t →
    ∃ r, t = { s with inputs := rest, responses := r :: s.responses, draws := t.draws, hostFault := t.hostFault }

/-- R251: a host that writes CMD, FMTn and the windows only while BUSY = 0 never sees OVR = 1. The protocol forbids only
writes that would be dropped; that an illegal window write while BUSY = 1 leaves OVR at 0 as well is log 11. -/
def Obligations.PollingHostNeverSetsOvr : Prop :=
  ∀ s t : State, s.ovr = false → followsPolling s = true → step s = .next t → t.ovr = false

/-- R29: OVR stays 1 through every step but an accepted CTRL write with CLR_OVR or SOFT_RESET and a power-on reset. -/
def Obligations.OvrStaysUntilCleared : Prop :=
  ∀ s t : State, s.ovr = true → step s = .next t → t.ovr = false →
    (∃ rest, s.inputs = .powerOn :: rest) ∨
    ∃ v rest, s.inputs = .access (.write (s.params.base + 0x010) .word v) :: rest ∧
      (v.getLsbD 0 = true ∨ v.getLsbD 1 = true)

/-- R46, I16: the pending latches are not observable while no command is pending: other values in them change no step in
anything but themselves, and a command accepted meanwhile latches the same. -/
def Obligations.IdleLatchesAreInvisible : Prop :=
  ∀ (s : State) (c x y z : Word), s.busy = false →
    match step s, step (withPend s c x y z) with
    | .next t, .next t' =>
      t' = withPend t t'.pendCmd t'.pendArg0 t'.pendArg1 t'.pendArg2 ∧ (t.busy = true → t' = t)
    | .fault r, .fault r' => r = r'
    | _, _ => False

/-! ### Reset and invariants -/

/-- R46: the register values after power-on reset, and the same registers after a power-on reset asserted at any time
(R236). The value of the pending latches is the model's choice and is not stated (log 7). -/
def Obligations.PowerOnGivesResetValues : Prop :=
  ∀ (s : State) (rest : List Input), ∃ t, step { s with inputs := .powerOn :: rest } = .next t ∧
    ∀ u ∈ [State.reset, t],
      statusWord u = 0#32 ∧ u.cmd = 0#32 ∧ u.arg0 = 0#32 ∧ u.arg1 = 0#32 ∧ u.arg2 = 0#32 ∧ u.res = 0#128 ∧
      u.buf0 = ⟨0#3, 0#32, 0#32⟩ ∧ u.buf1 = ⟨0#3, 0#32, 0#32⟩ ∧
      u.faNext = 0#32 ∧ u.faEnd = 0#32 ∧ faCtlWord u = 0#32 ∧ (∀ n : Slot, u.fmt[n] = 0#16) ∧ u.busy = false

/-- Every invariant of Safety.lean holds right after reset. -/
def Obligations.ResetMeetsInvariants : Prop := stateWf State.reset

/-- R37: every step keeps both buffers well formed. -/
def Obligations.StepsKeepBufferInvariant : Prop :=
  ∀ s t : State, buffersWf s → step s = .next t → buffersWf t

/-- Every step keeps the storage RAMs in canonical form and inside CAP_BYTES (R38; log 4). -/
def Obligations.StepsKeepStorageCanonical : Prop :=
  ∀ s t : State, ramsWf s → step s = .next t → ramsWf t

/-- R210, R27, I15: every step keeps ERRCODE a code that is produced, and ERR in step with it. -/
def Obligations.StepsKeepErrorFields : Prop :=
  ∀ s t : State, errorFieldsWf s → step s = .next t → errorFieldsWf t

/-- R169: every step keeps every built table in agreement with its descriptor's closed form. -/
def Obligations.StepsKeepTableAgreement : Prop :=
  ∀ s t : State, tablesWf s → step s = .next t → tablesWf t

/-- R195: every step keeps the iterator's range inside the haystack and the needle non-empty while it is active. -/
def Obligations.StepsKeepIteratorInvariant : Prop :=
  ∀ s t : State, iteratorWf s → step s = .next t → iteratorWf t

/-- R45: no step changes the parameters. -/
def Obligations.StepsKeepParameters : Prop :=
  ∀ s t : State, step s = .next t → t.params = s.params

/-- R252, in the model's schedule (log 2): whatever inputs are waiting, after one step for each and one more every
accepted command has completed or been cancelled. -/
def Obligations.NoCommandStaysPending : Prop :=
  ∀ s : State, (∀ i ∈ s.inputs, inAperture s.params i = true) →
    ∃ t, Sys2Proof.core.run (s.inputs.length + 1) s = .next t ∧ t.busy = false ∧ t.inputs = []
end

