-- ==== Sys2Proof/Laws/State.lean ====
section
/-! SUPPORT. One lemma per field and named update of the state: what the update leaves in that field. -/

namespace Sys2Proof.Machine

/-! ### raiseErr -/

@[simp] theorem raiseErr_params (e : ErrorCode) (s : State) : (raiseErr e s).params = s.params := rfl
@[simp] theorem raiseErr_busy (e : ErrorCode) (s : State) : (raiseErr e s).busy = false := rfl
@[simp] theorem raiseErr_err (e : ErrorCode) (s : State) : (raiseErr e s).err = true := rfl
@[simp] theorem raiseErr_found (e : ErrorCode) (s : State) : (raiseErr e s).found = s.found := rfl
@[simp] theorem raiseErr_ovr (e : ErrorCode) (s : State) : (raiseErr e s).ovr = s.ovr := rfl
@[simp] theorem raiseErr_fmtValid (e : ErrorCode) (s : State) : (raiseErr e s).fmtValid = s.fmtValid := rfl
@[simp] theorem raiseErr_errCode (e : ErrorCode) (s : State) : (raiseErr e s).errCode = errorNumber e := rfl
@[simp] theorem raiseErr_lastOp (e : ErrorCode) (s : State) : (raiseErr e s).lastOp = pendOp s := rfl
@[simp] theorem raiseErr_cmd (e : ErrorCode) (s : State) : (raiseErr e s).cmd = s.cmd := rfl
@[simp] theorem raiseErr_arg0 (e : ErrorCode) (s : State) : (raiseErr e s).arg0 = s.arg0 := rfl
@[simp] theorem raiseErr_arg1 (e : ErrorCode) (s : State) : (raiseErr e s).arg1 = s.arg1 := rfl
@[simp] theorem raiseErr_arg2 (e : ErrorCode) (s : State) : (raiseErr e s).arg2 = s.arg2 := rfl
@[simp] theorem raiseErr_res (e : ErrorCode) (s : State) : (raiseErr e s).res = s.res := rfl
@[simp] theorem raiseErr_buf0 (e : ErrorCode) (s : State) : (raiseErr e s).buf0 = s.buf0 := rfl
@[simp] theorem raiseErr_buf1 (e : ErrorCode) (s : State) : (raiseErr e s).buf1 = s.buf1 := rfl
@[simp] theorem raiseErr_ram0 (e : ErrorCode) (s : State) : (raiseErr e s).ram0 = s.ram0 := rfl
@[simp] theorem raiseErr_ram1 (e : ErrorCode) (s : State) : (raiseErr e s).ram1 = s.ram1 := rfl
@[simp] theorem raiseErr_faNext (e : ErrorCode) (s : State) : (raiseErr e s).faNext = s.faNext := rfl
@[simp] theorem raiseErr_faEnd (e : ErrorCode) (s : State) : (raiseErr e s).faEnd = s.faEnd := rfl
@[simp] theorem raiseErr_faBa (e : ErrorCode) (s : State) : (raiseErr e s).faBa = s.faBa := rfl
@[simp] theorem raiseErr_faActive (e : ErrorCode) (s : State) : (raiseErr e s).faActive = s.faActive := rfl
@[simp] theorem raiseErr_fmt (e : ErrorCode) (s : State) : (raiseErr e s).fmt = s.fmt := rfl
@[simp] theorem raiseErr_lut (e : ErrorCode) (s : State) : (raiseErr e s).lut = s.lut := rfl
@[simp] theorem raiseErr_pendCmd (e : ErrorCode) (s : State) : (raiseErr e s).pendCmd = s.pendCmd := rfl
@[simp] theorem raiseErr_pendArg0 (e : ErrorCode) (s : State) : (raiseErr e s).pendArg0 = s.pendArg0 := rfl
@[simp] theorem raiseErr_pendArg1 (e : ErrorCode) (s : State) : (raiseErr e s).pendArg1 = s.pendArg1 := rfl
@[simp] theorem raiseErr_pendArg2 (e : ErrorCode) (s : State) : (raiseErr e s).pendArg2 = s.pendArg2 := rfl
@[simp] theorem raiseErr_powerOns (e : ErrorCode) (s : State) : (raiseErr e s).powerOns = s.powerOns := rfl
@[simp] theorem raiseErr_draws (e : ErrorCode) (s : State) : (raiseErr e s).draws = s.draws := rfl
@[simp] theorem raiseErr_hostFault (e : ErrorCode) (s : State) : (raiseErr e s).hostFault = s.hostFault := rfl
@[simp] theorem raiseErr_responses (e : ErrorCode) (s : State) : (raiseErr e s).responses = s.responses := rfl
@[simp] theorem raiseErr_inputs (e : ErrorCode) (s : State) : (raiseErr e s).inputs = s.inputs := rfl

/-! ### completeNoResult -/

@[simp] theorem completeNoResult_params (s : State) : (completeNoResult s).params = s.params := rfl
@[simp] theorem completeNoResult_busy (s : State) : (completeNoResult s).busy = false := rfl
@[simp] theorem completeNoResult_err (s : State) : (completeNoResult s).err = false := rfl
@[simp] theorem completeNoResult_found (s : State) : (completeNoResult s).found = s.found := rfl
@[simp] theorem completeNoResult_ovr (s : State) : (completeNoResult s).ovr = s.ovr := rfl
@[simp] theorem completeNoResult_fmtValid (s : State) : (completeNoResult s).fmtValid = s.fmtValid := rfl
@[simp] theorem completeNoResult_errCode (s : State) : (completeNoResult s).errCode = 0#4 := rfl
@[simp] theorem completeNoResult_lastOp (s : State) : (completeNoResult s).lastOp = pendOp s := rfl
@[simp] theorem completeNoResult_cmd (s : State) : (completeNoResult s).cmd = s.cmd := rfl
@[simp] theorem completeNoResult_arg0 (s : State) : (completeNoResult s).arg0 = s.arg0 := rfl
@[simp] theorem completeNoResult_arg1 (s : State) : (completeNoResult s).arg1 = s.arg1 := rfl
@[simp] theorem completeNoResult_arg2 (s : State) : (completeNoResult s).arg2 = s.arg2 := rfl
@[simp] theorem completeNoResult_res (s : State) : (completeNoResult s).res = s.res := rfl
@[simp] theorem completeNoResult_buf0 (s : State) : (completeNoResult s).buf0 = s.buf0 := rfl
@[simp] theorem completeNoResult_buf1 (s : State) : (completeNoResult s).buf1 = s.buf1 := rfl
@[simp] theorem completeNoResult_ram0 (s : State) : (completeNoResult s).ram0 = s.ram0 := rfl
@[simp] theorem completeNoResult_ram1 (s : State) : (completeNoResult s).ram1 = s.ram1 := rfl
@[simp] theorem completeNoResult_faNext (s : State) : (completeNoResult s).faNext = s.faNext := rfl
@[simp] theorem completeNoResult_faEnd (s : State) : (completeNoResult s).faEnd = s.faEnd := rfl
@[simp] theorem completeNoResult_faBa (s : State) : (completeNoResult s).faBa = s.faBa := rfl
@[simp] theorem completeNoResult_faActive (s : State) : (completeNoResult s).faActive = s.faActive := rfl
@[simp] theorem completeNoResult_fmt (s : State) : (completeNoResult s).fmt = s.fmt := rfl
@[simp] theorem completeNoResult_lut (s : State) : (completeNoResult s).lut = s.lut := rfl
@[simp] theorem completeNoResult_pendCmd (s : State) : (completeNoResult s).pendCmd = s.pendCmd := rfl
@[simp] theorem completeNoResult_pendArg0 (s : State) : (completeNoResult s).pendArg0 = s.pendArg0 := rfl
@[simp] theorem completeNoResult_pendArg1 (s : State) : (completeNoResult s).pendArg1 = s.pendArg1 := rfl
@[simp] theorem completeNoResult_pendArg2 (s : State) : (completeNoResult s).pendArg2 = s.pendArg2 := rfl
@[simp] theorem completeNoResult_powerOns (s : State) : (completeNoResult s).powerOns = s.powerOns := rfl
@[simp] theorem completeNoResult_draws (s : State) : (completeNoResult s).draws = s.draws := rfl
@[simp] theorem completeNoResult_hostFault (s : State) : (completeNoResult s).hostFault = s.hostFault := rfl
@[simp] theorem completeNoResult_responses (s : State) : (completeNoResult s).responses = s.responses := rfl
@[simp] theorem completeNoResult_inputs (s : State) : (completeNoResult s).inputs = s.inputs := rfl

/-! ### complete -/

@[simp] theorem complete_params (r : Result) (s : State) : (complete r s).params = s.params := rfl
@[simp] theorem complete_busy (r : Result) (s : State) : (complete r s).busy = false := rfl
@[simp] theorem complete_err (r : Result) (s : State) : (complete r s).err = false := rfl
@[simp] theorem complete_found (r : Result) (s : State) : (complete r s).found = s.found := rfl
@[simp] theorem complete_ovr (r : Result) (s : State) : (complete r s).ovr = s.ovr := rfl
@[simp] theorem complete_fmtValid (r : Result) (s : State) : (complete r s).fmtValid = s.fmtValid := rfl
@[simp] theorem complete_errCode (r : Result) (s : State) : (complete r s).errCode = 0#4 := rfl
@[simp] theorem complete_lastOp (r : Result) (s : State) : (complete r s).lastOp = pendOp s := rfl
@[simp] theorem complete_cmd (r : Result) (s : State) : (complete r s).cmd = s.cmd := rfl
@[simp] theorem complete_arg0 (r : Result) (s : State) : (complete r s).arg0 = s.arg0 := rfl
@[simp] theorem complete_arg1 (r : Result) (s : State) : (complete r s).arg1 = s.arg1 := rfl
@[simp] theorem complete_arg2 (r : Result) (s : State) : (complete r s).arg2 = s.arg2 := rfl
@[simp] theorem complete_res (r : Result) (s : State) : (complete r s).res = r := rfl
@[simp] theorem complete_buf0 (r : Result) (s : State) : (complete r s).buf0 = s.buf0 := rfl
@[simp] theorem complete_buf1 (r : Result) (s : State) : (complete r s).buf1 = s.buf1 := rfl
@[simp] theorem complete_ram0 (r : Result) (s : State) : (complete r s).ram0 = s.ram0 := rfl
@[simp] theorem complete_ram1 (r : Result) (s : State) : (complete r s).ram1 = s.ram1 := rfl
@[simp] theorem complete_faNext (r : Result) (s : State) : (complete r s).faNext = s.faNext := rfl
@[simp] theorem complete_faEnd (r : Result) (s : State) : (complete r s).faEnd = s.faEnd := rfl
@[simp] theorem complete_faBa (r : Result) (s : State) : (complete r s).faBa = s.faBa := rfl
@[simp] theorem complete_faActive (r : Result) (s : State) : (complete r s).faActive = s.faActive := rfl
@[simp] theorem complete_fmt (r : Result) (s : State) : (complete r s).fmt = s.fmt := rfl
@[simp] theorem complete_lut (r : Result) (s : State) : (complete r s).lut = s.lut := rfl
@[simp] theorem complete_pendCmd (r : Result) (s : State) : (complete r s).pendCmd = s.pendCmd := rfl
@[simp] theorem complete_pendArg0 (r : Result) (s : State) : (complete r s).pendArg0 = s.pendArg0 := rfl
@[simp] theorem complete_pendArg1 (r : Result) (s : State) : (complete r s).pendArg1 = s.pendArg1 := rfl
@[simp] theorem complete_pendArg2 (r : Result) (s : State) : (complete r s).pendArg2 = s.pendArg2 := rfl
@[simp] theorem complete_powerOns (r : Result) (s : State) : (complete r s).powerOns = s.powerOns := rfl
@[simp] theorem complete_draws (r : Result) (s : State) : (complete r s).draws = s.draws := rfl
@[simp] theorem complete_hostFault (r : Result) (s : State) : (complete r s).hostFault = s.hostFault := rfl
@[simp] theorem complete_responses (r : Result) (s : State) : (complete r s).responses = s.responses := rfl
@[simp] theorem complete_inputs (r : Result) (s : State) : (complete r s).inputs = s.inputs := rfl

/-! ### setFound -/

@[simp] theorem setFound_params (f : Bool) (s : State) : (setFound f s).params = s.params := rfl
@[simp] theorem setFound_busy (f : Bool) (s : State) : (setFound f s).busy = s.busy := rfl
@[simp] theorem setFound_err (f : Bool) (s : State) : (setFound f s).err = s.err := rfl
@[simp] theorem setFound_found (f : Bool) (s : State) : (setFound f s).found = f := rfl
@[simp] theorem setFound_ovr (f : Bool) (s : State) : (setFound f s).ovr = s.ovr := rfl
@[simp] theorem setFound_fmtValid (f : Bool) (s : State) : (setFound f s).fmtValid = s.fmtValid := rfl
@[simp] theorem setFound_errCode (f : Bool) (s : State) : (setFound f s).errCode = s.errCode := rfl
@[simp] theorem setFound_lastOp (f : Bool) (s : State) : (setFound f s).lastOp = s.lastOp := rfl
@[simp] theorem setFound_cmd (f : Bool) (s : State) : (setFound f s).cmd = s.cmd := rfl
@[simp] theorem setFound_arg0 (f : Bool) (s : State) : (setFound f s).arg0 = s.arg0 := rfl
@[simp] theorem setFound_arg1 (f : Bool) (s : State) : (setFound f s).arg1 = s.arg1 := rfl
@[simp] theorem setFound_arg2 (f : Bool) (s : State) : (setFound f s).arg2 = s.arg2 := rfl
@[simp] theorem setFound_res (f : Bool) (s : State) : (setFound f s).res = s.res := rfl
@[simp] theorem setFound_buf0 (f : Bool) (s : State) : (setFound f s).buf0 = s.buf0 := rfl
@[simp] theorem setFound_buf1 (f : Bool) (s : State) : (setFound f s).buf1 = s.buf1 := rfl
@[simp] theorem setFound_ram0 (f : Bool) (s : State) : (setFound f s).ram0 = s.ram0 := rfl
@[simp] theorem setFound_ram1 (f : Bool) (s : State) : (setFound f s).ram1 = s.ram1 := rfl
@[simp] theorem setFound_faNext (f : Bool) (s : State) : (setFound f s).faNext = s.faNext := rfl
@[simp] theorem setFound_faEnd (f : Bool) (s : State) : (setFound f s).faEnd = s.faEnd := rfl
@[simp] theorem setFound_faBa (f : Bool) (s : State) : (setFound f s).faBa = s.faBa := rfl
@[simp] theorem setFound_faActive (f : Bool) (s : State) : (setFound f s).faActive = s.faActive := rfl
@[simp] theorem setFound_fmt (f : Bool) (s : State) : (setFound f s).fmt = s.fmt := rfl
@[simp] theorem setFound_lut (f : Bool) (s : State) : (setFound f s).lut = s.lut := rfl
@[simp] theorem setFound_pendCmd (f : Bool) (s : State) : (setFound f s).pendCmd = s.pendCmd := rfl
@[simp] theorem setFound_pendArg0 (f : Bool) (s : State) : (setFound f s).pendArg0 = s.pendArg0 := rfl
@[simp] theorem setFound_pendArg1 (f : Bool) (s : State) : (setFound f s).pendArg1 = s.pendArg1 := rfl
@[simp] theorem setFound_pendArg2 (f : Bool) (s : State) : (setFound f s).pendArg2 = s.pendArg2 := rfl
@[simp] theorem setFound_powerOns (f : Bool) (s : State) : (setFound f s).powerOns = s.powerOns := rfl
@[simp] theorem setFound_draws (f : Bool) (s : State) : (setFound f s).draws = s.draws := rfl
@[simp] theorem setFound_hostFault (f : Bool) (s : State) : (setFound f s).hostFault = s.hostFault := rfl
@[simp] theorem setFound_responses (f : Bool) (s : State) : (setFound f s).responses = s.responses := rfl
@[simp] theorem setFound_inputs (f : Bool) (s : State) : (setFound f s).inputs = s.inputs := rfl

/-! ### setOvr -/

@[simp] theorem setOvr_params (s : State) : (setOvr s).params = s.params := rfl
@[simp] theorem setOvr_busy (s : State) : (setOvr s).busy = s.busy := rfl
@[simp] theorem setOvr_err (s : State) : (setOvr s).err = s.err := rfl
@[simp] theorem setOvr_found (s : State) : (setOvr s).found = s.found := rfl
@[simp] theorem setOvr_ovr (s : State) : (setOvr s).ovr = true := rfl
@[simp] theorem setOvr_fmtValid (s : State) : (setOvr s).fmtValid = s.fmtValid := rfl
@[simp] theorem setOvr_errCode (s : State) : (setOvr s).errCode = s.errCode := rfl
@[simp] theorem setOvr_lastOp (s : State) : (setOvr s).lastOp = s.lastOp := rfl
@[simp] theorem setOvr_cmd (s : State) : (setOvr s).cmd = s.cmd := rfl
@[simp] theorem setOvr_arg0 (s : State) : (setOvr s).arg0 = s.arg0 := rfl
@[simp] theorem setOvr_arg1 (s : State) : (setOvr s).arg1 = s.arg1 := rfl
@[simp] theorem setOvr_arg2 (s : State) : (setOvr s).arg2 = s.arg2 := rfl
@[simp] theorem setOvr_res (s : State) : (setOvr s).res = s.res := rfl
@[simp] theorem setOvr_buf0 (s : State) : (setOvr s).buf0 = s.buf0 := rfl
@[simp] theorem setOvr_buf1 (s : State) : (setOvr s).buf1 = s.buf1 := rfl
@[simp] theorem setOvr_ram0 (s : State) : (setOvr s).ram0 = s.ram0 := rfl
@[simp] theorem setOvr_ram1 (s : State) : (setOvr s).ram1 = s.ram1 := rfl
@[simp] theorem setOvr_faNext (s : State) : (setOvr s).faNext = s.faNext := rfl
@[simp] theorem setOvr_faEnd (s : State) : (setOvr s).faEnd = s.faEnd := rfl
@[simp] theorem setOvr_faBa (s : State) : (setOvr s).faBa = s.faBa := rfl
@[simp] theorem setOvr_faActive (s : State) : (setOvr s).faActive = s.faActive := rfl
@[simp] theorem setOvr_fmt (s : State) : (setOvr s).fmt = s.fmt := rfl
@[simp] theorem setOvr_lut (s : State) : (setOvr s).lut = s.lut := rfl
@[simp] theorem setOvr_pendCmd (s : State) : (setOvr s).pendCmd = s.pendCmd := rfl
@[simp] theorem setOvr_pendArg0 (s : State) : (setOvr s).pendArg0 = s.pendArg0 := rfl
@[simp] theorem setOvr_pendArg1 (s : State) : (setOvr s).pendArg1 = s.pendArg1 := rfl
@[simp] theorem setOvr_pendArg2 (s : State) : (setOvr s).pendArg2 = s.pendArg2 := rfl
@[simp] theorem setOvr_powerOns (s : State) : (setOvr s).powerOns = s.powerOns := rfl
@[simp] theorem setOvr_draws (s : State) : (setOvr s).draws = s.draws := rfl
@[simp] theorem setOvr_hostFault (s : State) : (setOvr s).hostFault = s.hostFault := rfl
@[simp] theorem setOvr_responses (s : State) : (setOvr s).responses = s.responses := rfl
@[simp] theorem setOvr_inputs (s : State) : (setOvr s).inputs = s.inputs := rfl

/-! ### deactivateFa -/

@[simp] theorem deactivateFa_params (s : State) : (deactivateFa s).params = s.params := rfl
@[simp] theorem deactivateFa_busy (s : State) : (deactivateFa s).busy = s.busy := rfl
@[simp] theorem deactivateFa_err (s : State) : (deactivateFa s).err = s.err := rfl
@[simp] theorem deactivateFa_found (s : State) : (deactivateFa s).found = s.found := rfl
@[simp] theorem deactivateFa_ovr (s : State) : (deactivateFa s).ovr = s.ovr := rfl
@[simp] theorem deactivateFa_fmtValid (s : State) : (deactivateFa s).fmtValid = s.fmtValid := rfl
@[simp] theorem deactivateFa_errCode (s : State) : (deactivateFa s).errCode = s.errCode := rfl
@[simp] theorem deactivateFa_lastOp (s : State) : (deactivateFa s).lastOp = s.lastOp := rfl
@[simp] theorem deactivateFa_cmd (s : State) : (deactivateFa s).cmd = s.cmd := rfl
@[simp] theorem deactivateFa_arg0 (s : State) : (deactivateFa s).arg0 = s.arg0 := rfl
@[simp] theorem deactivateFa_arg1 (s : State) : (deactivateFa s).arg1 = s.arg1 := rfl
@[simp] theorem deactivateFa_arg2 (s : State) : (deactivateFa s).arg2 = s.arg2 := rfl
@[simp] theorem deactivateFa_res (s : State) : (deactivateFa s).res = s.res := rfl
@[simp] theorem deactivateFa_buf0 (s : State) : (deactivateFa s).buf0 = s.buf0 := rfl
@[simp] theorem deactivateFa_buf1 (s : State) : (deactivateFa s).buf1 = s.buf1 := rfl
@[simp] theorem deactivateFa_ram0 (s : State) : (deactivateFa s).ram0 = s.ram0 := rfl
@[simp] theorem deactivateFa_ram1 (s : State) : (deactivateFa s).ram1 = s.ram1 := rfl
@[simp] theorem deactivateFa_faNext (s : State) : (deactivateFa s).faNext = s.faNext := rfl
@[simp] theorem deactivateFa_faEnd (s : State) : (deactivateFa s).faEnd = s.faEnd := rfl
@[simp] theorem deactivateFa_faBa (s : State) : (deactivateFa s).faBa = s.faBa := rfl
@[simp] theorem deactivateFa_faActive (s : State) : (deactivateFa s).faActive = false := rfl
@[simp] theorem deactivateFa_fmt (s : State) : (deactivateFa s).fmt = s.fmt := rfl
@[simp] theorem deactivateFa_lut (s : State) : (deactivateFa s).lut = s.lut := rfl
@[simp] theorem deactivateFa_pendCmd (s : State) : (deactivateFa s).pendCmd = s.pendCmd := rfl
@[simp] theorem deactivateFa_pendArg0 (s : State) : (deactivateFa s).pendArg0 = s.pendArg0 := rfl
@[simp] theorem deactivateFa_pendArg1 (s : State) : (deactivateFa s).pendArg1 = s.pendArg1 := rfl
@[simp] theorem deactivateFa_pendArg2 (s : State) : (deactivateFa s).pendArg2 = s.pendArg2 := rfl
@[simp] theorem deactivateFa_powerOns (s : State) : (deactivateFa s).powerOns = s.powerOns := rfl
@[simp] theorem deactivateFa_draws (s : State) : (deactivateFa s).draws = s.draws := rfl
@[simp] theorem deactivateFa_hostFault (s : State) : (deactivateFa s).hostFault = s.hostFault := rfl
@[simp] theorem deactivateFa_responses (s : State) : (deactivateFa s).responses = s.responses := rfl
@[simp] theorem deactivateFa_inputs (s : State) : (deactivateFa s).inputs = s.inputs := rfl

/-! ### setFmtValid -/

@[simp] theorem setFmtValid_params (n : Slot) (v : Bool) (s : State) : (setFmtValid n v s).params = s.params := rfl
@[simp] theorem setFmtValid_busy (n : Slot) (v : Bool) (s : State) : (setFmtValid n v s).busy = s.busy := rfl
@[simp] theorem setFmtValid_err (n : Slot) (v : Bool) (s : State) : (setFmtValid n v s).err = s.err := rfl
@[simp] theorem setFmtValid_found (n : Slot) (v : Bool) (s : State) : (setFmtValid n v s).found = s.found := rfl
@[simp] theorem setFmtValid_ovr (n : Slot) (v : Bool) (s : State) : (setFmtValid n v s).ovr = s.ovr := rfl
@[simp] theorem setFmtValid_errCode (n : Slot) (v : Bool) (s : State) : (setFmtValid n v s).errCode = s.errCode := rfl
@[simp] theorem setFmtValid_lastOp (n : Slot) (v : Bool) (s : State) : (setFmtValid n v s).lastOp = s.lastOp := rfl
@[simp] theorem setFmtValid_cmd (n : Slot) (v : Bool) (s : State) : (setFmtValid n v s).cmd = s.cmd := rfl
@[simp] theorem setFmtValid_arg0 (n : Slot) (v : Bool) (s : State) : (setFmtValid n v s).arg0 = s.arg0 := rfl
@[simp] theorem setFmtValid_arg1 (n : Slot) (v : Bool) (s : State) : (setFmtValid n v s).arg1 = s.arg1 := rfl
@[simp] theorem setFmtValid_arg2 (n : Slot) (v : Bool) (s : State) : (setFmtValid n v s).arg2 = s.arg2 := rfl
@[simp] theorem setFmtValid_res (n : Slot) (v : Bool) (s : State) : (setFmtValid n v s).res = s.res := rfl
@[simp] theorem setFmtValid_buf0 (n : Slot) (v : Bool) (s : State) : (setFmtValid n v s).buf0 = s.buf0 := rfl
@[simp] theorem setFmtValid_buf1 (n : Slot) (v : Bool) (s : State) : (setFmtValid n v s).buf1 = s.buf1 := rfl
@[simp] theorem setFmtValid_ram0 (n : Slot) (v : Bool) (s : State) : (setFmtValid n v s).ram0 = s.ram0 := rfl
@[simp] theorem setFmtValid_ram1 (n : Slot) (v : Bool) (s : State) : (setFmtValid n v s).ram1 = s.ram1 := rfl
@[simp] theorem setFmtValid_faNext (n : Slot) (v : Bool) (s : State) : (setFmtValid n v s).faNext = s.faNext := rfl
@[simp] theorem setFmtValid_faEnd (n : Slot) (v : Bool) (s : State) : (setFmtValid n v s).faEnd = s.faEnd := rfl
@[simp] theorem setFmtValid_faBa (n : Slot) (v : Bool) (s : State) : (setFmtValid n v s).faBa = s.faBa := rfl
@[simp] theorem setFmtValid_faActive (n : Slot) (v : Bool) (s : State) : (setFmtValid n v s).faActive = s.faActive := rfl
@[simp] theorem setFmtValid_fmt (n : Slot) (v : Bool) (s : State) : (setFmtValid n v s).fmt = s.fmt := rfl
@[simp] theorem setFmtValid_lut (n : Slot) (v : Bool) (s : State) : (setFmtValid n v s).lut = s.lut := rfl
@[simp] theorem setFmtValid_pendCmd (n : Slot) (v : Bool) (s : State) : (setFmtValid n v s).pendCmd = s.pendCmd := rfl
@[simp] theorem setFmtValid_pendArg0 (n : Slot) (v : Bool) (s : State) : (setFmtValid n v s).pendArg0 = s.pendArg0 := rfl
@[simp] theorem setFmtValid_pendArg1 (n : Slot) (v : Bool) (s : State) : (setFmtValid n v s).pendArg1 = s.pendArg1 := rfl
@[simp] theorem setFmtValid_pendArg2 (n : Slot) (v : Bool) (s : State) : (setFmtValid n v s).pendArg2 = s.pendArg2 := rfl
@[simp] theorem setFmtValid_powerOns (n : Slot) (v : Bool) (s : State) : (setFmtValid n v s).powerOns = s.powerOns := rfl
@[simp] theorem setFmtValid_draws (n : Slot) (v : Bool) (s : State) : (setFmtValid n v s).draws = s.draws := rfl
@[simp] theorem setFmtValid_hostFault (n : Slot) (v : Bool) (s : State) : (setFmtValid n v s).hostFault = s.hostFault := rfl
@[simp] theorem setFmtValid_responses (n : Slot) (v : Bool) (s : State) : (setFmtValid n v s).responses = s.responses := rfl
@[simp] theorem setFmtValid_inputs (n : Slot) (v : Bool) (s : State) : (setFmtValid n v s).inputs = s.inputs := rfl

/-! ### acceptCommand -/

@[simp] theorem acceptCommand_params (w : Word) (s : State) : (acceptCommand w s).params = s.params := rfl
@[simp] theorem acceptCommand_busy (w : Word) (s : State) : (acceptCommand w s).busy = true := rfl
@[simp] theorem acceptCommand_err (w : Word) (s : State) : (acceptCommand w s).err = s.err := rfl
@[simp] theorem acceptCommand_found (w : Word) (s : State) : (acceptCommand w s).found = s.found := rfl
@[simp] theorem acceptCommand_ovr (w : Word) (s : State) : (acceptCommand w s).ovr = s.ovr := rfl
@[simp] theorem acceptCommand_fmtValid (w : Word) (s : State) : (acceptCommand w s).fmtValid = s.fmtValid := rfl
@[simp] theorem acceptCommand_errCode (w : Word) (s : State) : (acceptCommand w s).errCode = s.errCode := rfl
@[simp] theorem acceptCommand_lastOp (w : Word) (s : State) : (acceptCommand w s).lastOp = s.lastOp := rfl
@[simp] theorem acceptCommand_cmd (w : Word) (s : State) : (acceptCommand w s).cmd = w := rfl
@[simp] theorem acceptCommand_arg0 (w : Word) (s : State) : (acceptCommand w s).arg0 = s.arg0 := rfl
@[simp] theorem acceptCommand_arg1 (w : Word) (s : State) : (acceptCommand w s).arg1 = s.arg1 := rfl
@[simp] theorem acceptCommand_arg2 (w : Word) (s : State) : (acceptCommand w s).arg2 = s.arg2 := rfl
@[simp] theorem acceptCommand_res (w : Word) (s : State) : (acceptCommand w s).res = s.res := rfl
@[simp] theorem acceptCommand_buf0 (w : Word) (s : State) : (acceptCommand w s).buf0 = s.buf0 := rfl
@[simp] theorem acceptCommand_buf1 (w : Word) (s : State) : (acceptCommand w s).buf1 = s.buf1 := rfl
@[simp] theorem acceptCommand_ram0 (w : Word) (s : State) : (acceptCommand w s).ram0 = s.ram0 := rfl
@[simp] theorem acceptCommand_ram1 (w : Word) (s : State) : (acceptCommand w s).ram1 = s.ram1 := rfl
@[simp] theorem acceptCommand_faNext (w : Word) (s : State) : (acceptCommand w s).faNext = s.faNext := rfl
@[simp] theorem acceptCommand_faEnd (w : Word) (s : State) : (acceptCommand w s).faEnd = s.faEnd := rfl
@[simp] theorem acceptCommand_faBa (w : Word) (s : State) : (acceptCommand w s).faBa = s.faBa := rfl
@[simp] theorem acceptCommand_faActive (w : Word) (s : State) : (acceptCommand w s).faActive = s.faActive := rfl
@[simp] theorem acceptCommand_fmt (w : Word) (s : State) : (acceptCommand w s).fmt = s.fmt := rfl
@[simp] theorem acceptCommand_lut (w : Word) (s : State) : (acceptCommand w s).lut = s.lut := rfl
@[simp] theorem acceptCommand_pendCmd (w : Word) (s : State) : (acceptCommand w s).pendCmd = w := rfl
@[simp] theorem acceptCommand_pendArg0 (w : Word) (s : State) : (acceptCommand w s).pendArg0 = s.arg0 := rfl
@[simp] theorem acceptCommand_pendArg1 (w : Word) (s : State) : (acceptCommand w s).pendArg1 = s.arg1 := rfl
@[simp] theorem acceptCommand_pendArg2 (w : Word) (s : State) : (acceptCommand w s).pendArg2 = s.arg2 := rfl
@[simp] theorem acceptCommand_powerOns (w : Word) (s : State) : (acceptCommand w s).powerOns = s.powerOns := rfl
@[simp] theorem acceptCommand_draws (w : Word) (s : State) : (acceptCommand w s).draws = s.draws := rfl
@[simp] theorem acceptCommand_hostFault (w : Word) (s : State) : (acceptCommand w s).hostFault = s.hostFault := rfl
@[simp] theorem acceptCommand_responses (w : Word) (s : State) : (acceptCommand w s).responses = s.responses := rfl
@[simp] theorem acceptCommand_inputs (w : Word) (s : State) : (acceptCommand w s).inputs = s.inputs := rfl

/-! ### softReset -/

@[simp] theorem softReset_params (s : State) : (softReset s).params = s.params := rfl
@[simp] theorem softReset_busy (s : State) : (softReset s).busy = false := rfl
@[simp] theorem softReset_err (s : State) : (softReset s).err = false := rfl
@[simp] theorem softReset_found (s : State) : (softReset s).found = false := rfl
@[simp] theorem softReset_ovr (s : State) : (softReset s).ovr = false := rfl
@[simp] theorem softReset_fmtValid (s : State) : (softReset s).fmtValid = 0#4 := rfl
@[simp] theorem softReset_errCode (s : State) : (softReset s).errCode = 0#4 := rfl
@[simp] theorem softReset_lastOp (s : State) : (softReset s).lastOp = 0#8 := rfl
@[simp] theorem softReset_cmd (s : State) : (softReset s).cmd = 0#32 := rfl
@[simp] theorem softReset_arg0 (s : State) : (softReset s).arg0 = 0#32 := rfl
@[simp] theorem softReset_arg1 (s : State) : (softReset s).arg1 = 0#32 := rfl
@[simp] theorem softReset_arg2 (s : State) : (softReset s).arg2 = 0#32 := rfl
@[simp] theorem softReset_res (s : State) : (softReset s).res = 0#128 := rfl
@[simp] theorem softReset_buf0 (s : State) : (softReset s).buf0 = Buffer.empty := rfl
@[simp] theorem softReset_buf1 (s : State) : (softReset s).buf1 = Buffer.empty := rfl
@[simp] theorem softReset_ram0 (s : State) : (softReset s).ram0 = s.ram0 := rfl
@[simp] theorem softReset_ram1 (s : State) : (softReset s).ram1 = s.ram1 := rfl
@[simp] theorem softReset_faNext (s : State) : (softReset s).faNext = 0#32 := rfl
@[simp] theorem softReset_faEnd (s : State) : (softReset s).faEnd = 0#32 := rfl
@[simp] theorem softReset_faBa (s : State) : (softReset s).faBa = false := rfl
@[simp] theorem softReset_faActive (s : State) : (softReset s).faActive = false := rfl
@[simp] theorem softReset_fmt (s : State) : (softReset s).fmt = #v[0#16, 0#16, 0#16, 0#16] := rfl
@[simp] theorem softReset_lut (s : State) : (softReset s).lut = s.lut := rfl
@[simp] theorem softReset_pendCmd (s : State) : (softReset s).pendCmd = 0#32 := rfl
@[simp] theorem softReset_pendArg0 (s : State) : (softReset s).pendArg0 = 0#32 := rfl
@[simp] theorem softReset_pendArg1 (s : State) : (softReset s).pendArg1 = 0#32 := rfl
@[simp] theorem softReset_pendArg2 (s : State) : (softReset s).pendArg2 = 0#32 := rfl
@[simp] theorem softReset_powerOns (s : State) : (softReset s).powerOns = s.powerOns := rfl
@[simp] theorem softReset_draws (s : State) : (softReset s).draws = s.draws := rfl
@[simp] theorem softReset_hostFault (s : State) : (softReset s).hostFault = s.hostFault := rfl
@[simp] theorem softReset_responses (s : State) : (softReset s).responses = s.responses := rfl
@[simp] theorem softReset_inputs (s : State) : (softReset s).inputs = s.inputs := rfl

/-! ### setBufRegs -/

@[simp] theorem setBufRegs_params (s : State) (b : BufSel) (v : Buffer) : (setBufRegs s b v).params = s.params := by cases b <;> rfl
@[simp] theorem setBufRegs_busy (s : State) (b : BufSel) (v : Buffer) : (setBufRegs s b v).busy = s.busy := by cases b <;> rfl
@[simp] theorem setBufRegs_err (s : State) (b : BufSel) (v : Buffer) : (setBufRegs s b v).err = s.err := by cases b <;> rfl
@[simp] theorem setBufRegs_found (s : State) (b : BufSel) (v : Buffer) : (setBufRegs s b v).found = s.found := by cases b <;> rfl
@[simp] theorem setBufRegs_ovr (s : State) (b : BufSel) (v : Buffer) : (setBufRegs s b v).ovr = s.ovr := by cases b <;> rfl
@[simp] theorem setBufRegs_fmtValid (s : State) (b : BufSel) (v : Buffer) : (setBufRegs s b v).fmtValid = s.fmtValid := by cases b <;> rfl
@[simp] theorem setBufRegs_errCode (s : State) (b : BufSel) (v : Buffer) : (setBufRegs s b v).errCode = s.errCode := by cases b <;> rfl
@[simp] theorem setBufRegs_lastOp (s : State) (b : BufSel) (v : Buffer) : (setBufRegs s b v).lastOp = s.lastOp := by cases b <;> rfl
@[simp] theorem setBufRegs_cmd (s : State) (b : BufSel) (v : Buffer) : (setBufRegs s b v).cmd = s.cmd := by cases b <;> rfl
@[simp] theorem setBufRegs_arg0 (s : State) (b : BufSel) (v : Buffer) : (setBufRegs s b v).arg0 = s.arg0 := by cases b <;> rfl
@[simp] theorem setBufRegs_arg1 (s : State) (b : BufSel) (v : Buffer) : (setBufRegs s b v).arg1 = s.arg1 := by cases b <;> rfl
@[simp] theorem setBufRegs_arg2 (s : State) (b : BufSel) (v : Buffer) : (setBufRegs s b v).arg2 = s.arg2 := by cases b <;> rfl
@[simp] theorem setBufRegs_res (s : State) (b : BufSel) (v : Buffer) : (setBufRegs s b v).res = s.res := by cases b <;> rfl
@[simp] theorem setBufRegs_ram0 (s : State) (b : BufSel) (v : Buffer) : (setBufRegs s b v).ram0 = s.ram0 := by cases b <;> rfl
@[simp] theorem setBufRegs_ram1 (s : State) (b : BufSel) (v : Buffer) : (setBufRegs s b v).ram1 = s.ram1 := by cases b <;> rfl
@[simp] theorem setBufRegs_faNext (s : State) (b : BufSel) (v : Buffer) : (setBufRegs s b v).faNext = s.faNext := by cases b <;> rfl
@[simp] theorem setBufRegs_faEnd (s : State) (b : BufSel) (v : Buffer) : (setBufRegs s b v).faEnd = s.faEnd := by cases b <;> rfl
@[simp] theorem setBufRegs_faBa (s : State) (b : BufSel) (v : Buffer) : (setBufRegs s b v).faBa = s.faBa := by cases b <;> rfl
@[simp] theorem setBufRegs_faActive (s : State) (b : BufSel) (v : Buffer) : (setBufRegs s b v).faActive = s.faActive := by cases b <;> rfl
@[simp] theorem setBufRegs_fmt (s : State) (b : BufSel) (v : Buffer) : (setBufRegs s b v).fmt = s.fmt := by cases b <;> rfl
@[simp] theorem setBufRegs_lut (s : State) (b : BufSel) (v : Buffer) : (setBufRegs s b v).lut = s.lut := by cases b <;> rfl
@[simp] theorem setBufRegs_pendCmd (s : State) (b : BufSel) (v : Buffer) : (setBufRegs s b v).pendCmd = s.pendCmd := by cases b <;> rfl
@[simp] theorem setBufRegs_pendArg0 (s : State) (b : BufSel) (v : Buffer) : (setBufRegs s b v).pendArg0 = s.pendArg0 := by cases b <;> rfl
@[simp] theorem setBufRegs_pendArg1 (s : State) (b : BufSel) (v : Buffer) : (setBufRegs s b v).pendArg1 = s.pendArg1 := by cases b <;> rfl
@[simp] theorem setBufRegs_pendArg2 (s : State) (b : BufSel) (v : Buffer) : (setBufRegs s b v).pendArg2 = s.pendArg2 := by cases b <;> rfl
@[simp] theorem setBufRegs_powerOns (s : State) (b : BufSel) (v : Buffer) : (setBufRegs s b v).powerOns = s.powerOns := by cases b <;> rfl
@[simp] theorem setBufRegs_draws (s : State) (b : BufSel) (v : Buffer) : (setBufRegs s b v).draws = s.draws := by cases b <;> rfl
@[simp] theorem setBufRegs_hostFault (s : State) (b : BufSel) (v : Buffer) : (setBufRegs s b v).hostFault = s.hostFault := by cases b <;> rfl
@[simp] theorem setBufRegs_responses (s : State) (b : BufSel) (v : Buffer) : (setBufRegs s b v).responses = s.responses := by cases b <;> rfl
@[simp] theorem setBufRegs_inputs (s : State) (b : BufSel) (v : Buffer) : (setBufRegs s b v).inputs = s.inputs := by cases b <;> rfl

/-! ### setRam -/

@[simp] theorem setRam_params (s : State) (b : BufSel) (m : Memory) : (setRam s b m).params = s.params := by cases b <;> rfl
@[simp] theorem setRam_busy (s : State) (b : BufSel) (m : Memory) : (setRam s b m).busy = s.busy := by cases b <;> rfl
@[simp] theorem setRam_err (s : State) (b : BufSel) (m : Memory) : (setRam s b m).err = s.err := by cases b <;> rfl
@[simp] theorem setRam_found (s : State) (b : BufSel) (m : Memory) : (setRam s b m).found = s.found := by cases b <;> rfl
@[simp] theorem setRam_ovr (s : State) (b : BufSel) (m : Memory) : (setRam s b m).ovr = s.ovr := by cases b <;> rfl
@[simp] theorem setRam_fmtValid (s : State) (b : BufSel) (m : Memory) : (setRam s b m).fmtValid = s.fmtValid := by cases b <;> rfl
@[simp] theorem setRam_errCode (s : State) (b : BufSel) (m : Memory) : (setRam s b m).errCode = s.errCode := by cases b <;> rfl
@[simp] theorem setRam_lastOp (s : State) (b : BufSel) (m : Memory) : (setRam s b m).lastOp = s.lastOp := by cases b <;> rfl
@[simp] theorem setRam_cmd (s : State) (b : BufSel) (m : Memory) : (setRam s b m).cmd = s.cmd := by cases b <;> rfl
@[simp] theorem setRam_arg0 (s : State) (b : BufSel) (m : Memory) : (setRam s b m).arg0 = s.arg0 := by cases b <;> rfl
@[simp] theorem setRam_arg1 (s : State) (b : BufSel) (m : Memory) : (setRam s b m).arg1 = s.arg1 := by cases b <;> rfl
@[simp] theorem setRam_arg2 (s : State) (b : BufSel) (m : Memory) : (setRam s b m).arg2 = s.arg2 := by cases b <;> rfl
@[simp] theorem setRam_res (s : State) (b : BufSel) (m : Memory) : (setRam s b m).res = s.res := by cases b <;> rfl
@[simp] theorem setRam_buf0 (s : State) (b : BufSel) (m : Memory) : (setRam s b m).buf0 = s.buf0 := by cases b <;> rfl
@[simp] theorem setRam_buf1 (s : State) (b : BufSel) (m : Memory) : (setRam s b m).buf1 = s.buf1 := by cases b <;> rfl
@[simp] theorem setRam_faNext (s : State) (b : BufSel) (m : Memory) : (setRam s b m).faNext = s.faNext := by cases b <;> rfl
@[simp] theorem setRam_faEnd (s : State) (b : BufSel) (m : Memory) : (setRam s b m).faEnd = s.faEnd := by cases b <;> rfl
@[simp] theorem setRam_faBa (s : State) (b : BufSel) (m : Memory) : (setRam s b m).faBa = s.faBa := by cases b <;> rfl
@[simp] theorem setRam_faActive (s : State) (b : BufSel) (m : Memory) : (setRam s b m).faActive = s.faActive := by cases b <;> rfl
@[simp] theorem setRam_fmt (s : State) (b : BufSel) (m : Memory) : (setRam s b m).fmt = s.fmt := by cases b <;> rfl
@[simp] theorem setRam_lut (s : State) (b : BufSel) (m : Memory) : (setRam s b m).lut = s.lut := by cases b <;> rfl
@[simp] theorem setRam_pendCmd (s : State) (b : BufSel) (m : Memory) : (setRam s b m).pendCmd = s.pendCmd := by cases b <;> rfl
@[simp] theorem setRam_pendArg0 (s : State) (b : BufSel) (m : Memory) : (setRam s b m).pendArg0 = s.pendArg0 := by cases b <;> rfl
@[simp] theorem setRam_pendArg1 (s : State) (b : BufSel) (m : Memory) : (setRam s b m).pendArg1 = s.pendArg1 := by cases b <;> rfl
@[simp] theorem setRam_pendArg2 (s : State) (b : BufSel) (m : Memory) : (setRam s b m).pendArg2 = s.pendArg2 := by cases b <;> rfl
@[simp] theorem setRam_powerOns (s : State) (b : BufSel) (m : Memory) : (setRam s b m).powerOns = s.powerOns := by cases b <;> rfl
@[simp] theorem setRam_draws (s : State) (b : BufSel) (m : Memory) : (setRam s b m).draws = s.draws := by cases b <;> rfl
@[simp] theorem setRam_hostFault (s : State) (b : BufSel) (m : Memory) : (setRam s b m).hostFault = s.hostFault := by cases b <;> rfl
@[simp] theorem setRam_responses (s : State) (b : BufSel) (m : Memory) : (setRam s b m).responses = s.responses := by cases b <;> rfl
@[simp] theorem setRam_inputs (s : State) (b : BufSel) (m : Memory) : (setRam s b m).inputs = s.inputs := by cases b <;> rfl

/-! ### Buffers and RAMs by selection -/

@[simp] theorem bufRegs_setBufRegs (s : State) (b c : BufSel) (v : Buffer) :
    bufRegs (setBufRegs s b v) c = if c = b then v else bufRegs s c := by
  cases b <;> cases c <;> rfl

@[simp] theorem ramOf_setRam (s : State) (b c : BufSel) (m : Memory) :
    ramOf (setRam s b m) c = if c = b then m else ramOf s c := by
  cases b <;> cases c <;> rfl

@[simp] theorem bufRegs_setRam (s : State) (b c : BufSel) (m : Memory) : bufRegs (setRam s b m) c = bufRegs s c := by
  cases b <;> cases c <;> rfl

@[simp] theorem ramOf_setBufRegs (s : State) (b c : BufSel) (v : Buffer) : ramOf (setBufRegs s b v) c = ramOf s c := by
  cases b <;> cases c <;> rfl

/-- STATUS.FMT_VALID after one slot's bit is written: that bit is v, the others are kept (R30). -/
theorem isFmtValid_setFmtValid (n m : Slot) (v : Bool) (s : State) :
    isFmtValid (setFmtValid n v s) m = if m = n then v else isFmtValid s m := by
  simp only [isFmtValid, setFmtValid]
  generalize s.fmtValid = x
  revert x n m v
  decide

end Sys2Proof.Machine
end

