-- ==== Sys2Proof/Laws/Memory.lean ====
section
/-! SUPPORT. The laws of the storage RAM: reading after a write, and the canonical form that every memory operation
keeps. -/

namespace Sys2Proof.Machine

/-! ### Reading after writing -/

/-- A write is read back at its index and leaves every other index alone. -/
theorem memGet_memPut (m : Memory) (a : Nat) (v : Byte) (a' : Nat) :
    memGet (memPut m a v) a' = if a' = a then some v else memGet m a' := by
  induction m with
  | nil => simp [memPut, memGet, eq_comm]
  | cons c m ih =>
    obtain ⟨k, w⟩ := c
    simp only [memPut]
    by_cases h1 : a < k
    · simp [h1, memGet, eq_comm]
    · by_cases h2 : k = a
      · subst h2
        by_cases h3 : a' = k
        · simp [memGet, h3]
        · simp [memGet, h3, Ne.symm h3]
      · simp only [h1, h2, if_false, memGet, ih]
        by_cases h3 : k = a'
        · subst h3; simp [h2]
        · simp [h3]

/-- Zero-fill reads back as 0 below n and leaves every other index alone (R113). -/
theorem memGet_memZero (m : Memory) (n a : Nat) :
    memGet (memZero m n) a = if a < n then some 0#8 else memGet m a := by
  induction n with
  | zero => simp [memZero]
  | succ n ih =>
    simp only [memZero, memGet_memPut, ih]
    by_cases h : a = n
    · simp [h]
    · by_cases h' : a < n
      · simp [h, h', Nat.lt_succ_of_lt h']
      · simp [h, h', show ¬ a < n + 1 by omega]

/-- A window write reads back lane by lane and leaves every other index alone (R66). -/
theorem memGet_memStore (m : Memory) (i : Nat) (v : Word) (n a : Nat) :
    memGet (memStore m i v n) a = if i ≤ a ∧ a < i + n then some (laneByte v (a - i)) else memGet m a := by
  induction n with
  | zero => simp [memStore, show ¬ (i ≤ a ∧ a < i) by omega]
  | succ n ih =>
    simp only [memStore, memGet_memPut, ih]
    by_cases h : a = i + n
    · subst h; simp
    · by_cases h' : i ≤ a ∧ a < i + n
      · simp [h, h', show a < i + (n + 1) by omega]
      · simp [h, h', show ¬ (i ≤ a ∧ a < i + (n + 1)) by omega]

/-! ### The canonical form -/

theorem memRisingFrom_memPut (m : Memory) (lo : Option Nat) (a : Nat) (v : Byte)
    (hlo : ∀ k ∈ lo, k < a) (h : memRisingFrom lo m = true) : memRisingFrom lo (memPut m a v) = true := by
  induction m generalizing lo with
  | nil => cases lo <;> simp_all [memPut, memRisingFrom]
  | cons c m ih =>
    obtain ⟨k, w⟩ := c
    have hk : memRisingFrom (some k) m = true ∧ ∀ l ∈ lo, l < k := by
      cases lo <;> simp_all [memRisingFrom]
    simp only [memPut]
    by_cases h1 : a < k
    · cases lo <;> simp_all [memRisingFrom]
    · by_cases h2 : k = a
      · subst h2; cases lo <;> simp_all [memRisingFrom]
      · have := ih (some k) (by simp; omega) hk.1
        cases lo <;> simp_all [memRisingFrom, show ¬ a < k by omega]

/-- A write keeps the canonical form. -/
theorem memPut_wf (m : Memory) (a : Nat) (v : Byte) (h : Memory.wf m = true) : Memory.wf (memPut m a v) = true :=
  memRisingFrom_memPut m none a v (by simp) h

/-- Zero-fill keeps the canonical form. -/
theorem memZero_wf (m : Memory) (n : Nat) (h : Memory.wf m = true) : Memory.wf (memZero m n) = true := by
  induction n with
  | zero => exact h
  | succ n ih => exact memPut_wf _ _ _ ih

/-- A window write keeps the canonical form. -/
theorem memStore_wf (m : Memory) (i : Nat) (v : Word) (n : Nat) (h : Memory.wf m = true) :
    Memory.wf (memStore m i v n) = true := by
  induction n with
  | zero => exact h
  | succ n ih => exact memPut_wf _ _ _ ih

/-- The RAMs are in canonical form at reset. -/
theorem reset_rams_wf : Memory.wf State.reset.ram0 = true ∧ Memory.wf State.reset.ram1 = true := ⟨rfl, rfl⟩

/-! ### The range of indices -/

theorem memPut_within (cap : Nat) (m : Memory) (a : Nat) (v : Byte) (ha : a < cap)
    (h : Memory.within cap m = true) : Memory.within cap (memPut m a v) = true := by
  induction m with
  | nil => simp [memPut, Memory.within, ha]
  | cons c m ih =>
    obtain ⟨k, w⟩ := c
    have hk : k < cap ∧ Memory.within cap m = true := by simpa [Memory.within] using h
    simp only [memPut]
    split
    · simpa [Memory.within, ha] using hk
    · split
      · simpa [Memory.within, ha] using hk.2
      · simpa [Memory.within] using ⟨hk.1, by simpa [Memory.within] using ih hk.2⟩

theorem memZero_within (cap : Nat) (m : Memory) (n : Nat) (hn : n ≤ cap)
    (h : Memory.within cap m = true) : Memory.within cap (memZero m n) = true := by
  induction n with
  | zero => exact h
  | succ n ih => exact memPut_within cap _ _ _ (by omega) (ih (by omega))

theorem memStore_within (cap : Nat) (m : Memory) (i : Nat) (v : Word) (n : Nat) (hn : i + n ≤ cap)
    (h : Memory.within cap m = true) : Memory.within cap (memStore m i v n) = true := by
  induction n with
  | zero => exact h
  | succ n ih => exact memPut_within cap _ _ _ (by omega) (ih (by omega))

/-! ### Storage bytes of a state -/

/-- A byte of storage depends on the RAM of its buffer and the power-on alone. -/
theorem stor_congr {s t : State} {b : BufSel} (hr : ramOf t b = ramOf s b) (hp : t.powerOns = s.powerOns) (i : Nat) :
    stor t b i = stor s b i := by
  simp [stor, hr, hp]

/-- A bit depends on the RAM and the registers of its buffer and the power-on alone. -/
theorem bit_congr {s t : State} {b : BufSel} (hr : ramOf t b = ramOf s b) (hb : bufRegs t b = bufRegs s b)
    (hp : t.powerOns = s.powerOns) (p : Nat) : bit t b p = bit s b p := by
  simp [bit, offsetOf, hb, stor_congr hr hp]

/-- A field depends on the RAM and the registers of its buffer and the power-on alone. -/
theorem field_congr {s t : State} {b : BufSel} (hr : ramOf t b = ramOf s b) (hb : bufRegs t b = bufRegs s b)
    (hp : t.powerOns = s.powerOns) (p n : Nat) : field t b p n = field s b p n := by
  induction n with
  | zero => rfl
  | succ n ih => simp [field, ih, bit_congr hr hb hp]

end Sys2Proof.Machine
end

