-- ==== Sys2Proof/Laws/Fields.lean ====
section
/-! SUPPORT. Fields of a buffer: their ranges, and what the shared field computations can do. -/

namespace Sys2Proof.Machine

/-- An n-bit field is below 2^n. -/
theorem field_lt (s : State) (b : BufSel) (p n : Nat) : field s b p n < 2 ^ n := by
  induction n with
  | zero => simp [field]
  | succ n ih =>
    have := Bool.toNat_lt (bit s b (p + n))
    simp only [field, pow_succ]
    omega

/-- An m-byte little-endian field is below 2^(8 m). -/
theorem leField_lt (s : State) (p m : Nat) : leField s p m < 2 ^ (8 * m) := by
  induction m with
  | zero => simp [leField]
  | succ m ih =>
    have h := field_lt s .buf0 (p + 8 * m) 8
    have : field s .buf0 (p + 8 * m) 8 * 2 ^ (8 * m) ≤ (2 ^ 8 - 1) * 2 ^ (8 * m) := Nat.mul_le_mul_right _ (by omega)
    have e : 2 ^ (8 * (m + 1)) = 2 ^ 8 * 2 ^ (8 * m) := by rw [← pow_add]; congr 1; omega
    simp only [leField, e]
    omega

/-- The value `int_field` reads (R140). -/
def intFieldValue (e : Endian) (l : Numbering) (s : State) : Nat :=
  if isLittle e s.params then
    leField s (nativeField l (bitLenOf s .buf0) (operand0 s) (operand1 s)) (operand1 s / 8)
  else field s .buf0 (nativeField l (bitLenOf s .buf0) (operand0 s) (operand1 s)) (operand1 s)

/-- Everything `int_field` can do (R140): one of its three errors, with the checks before it passed, or the value. -/
theorem intField_cases (e : Endian) (l : Numbering) (s : State) :
    ((operand1 s = 0 ∨ 128 < operand1 s) ∧ intField e l s = .error .interpret) ∨
    ((1 ≤ operand1 s ∧ operand1 s ≤ 128) ∧ (e ≠ .be ∧ operand1 s % 8 ≠ 0) ∧ intField e l s = .error .byteAlign) ∨
    ((1 ≤ operand1 s ∧ operand1 s ≤ 128) ∧ (e = .be ∨ operand1 s % 8 = 0) ∧
      bitLenOf s .buf0 < operand0 s + operand1 s ∧ intField e l s = .error .index) ∨
    ((1 ≤ operand1 s ∧ operand1 s ≤ 128) ∧ (e = .be ∨ operand1 s % 8 = 0) ∧
      operand0 s + operand1 s ≤ bitLenOf s .buf0 ∧ intField e l s = .ok (intFieldValue e l s)) := by
  unfold intField intFieldValue
  by_cases h1 : operand1 s = 0 ∨ 128 < operand1 s
  · exact .inl ⟨h1, by simp [h1]⟩
  · have hw : needsWholeBytes e = true ↔ e ≠ .be := by cases e <;> simp [needsWholeBytes]
    have h1' : 1 ≤ operand1 s ∧ operand1 s ≤ 128 := by omega
    by_cases h2 : e ≠ .be ∧ operand1 s % 8 ≠ 0
    · exact .inr (.inl ⟨h1', h2, by simp [h1, hw, h2]⟩)
    · have h2' : e = .be ∨ operand1 s % 8 = 0 := by tauto
      by_cases h3 : bitLenOf s .buf0 < operand0 s + operand1 s
      · exact .inr (.inr (.inl ⟨h1', h2', h3, by simp only [h1, hw, h2, h3, if_false, if_true]⟩))
      · exact .inr (.inr (.inr ⟨h1', h2', by omega, by simp only [h1, hw, h2, h3, if_false]⟩))

end Sys2Proof.Machine
end

