-- ==== Sys2Proof/Laws/Finder.lean ====
section
/-! SUPPORT. The match list of the searcher: its members, its order, and what the search checks can do (R190, R191). -/

namespace Sys2Proof.Machine

/-- The members of the match list are the positions of R190. -/
theorem mem_matchList (s : State) (st en : Nat) (ba : Bool) (p : Nat) :
    p ∈ matchList s st en ba ↔
      st ≤ p ∧ p + bitLenOf s .buf1 ≤ en ∧ (ba = true → p % 8 = 0) ∧
        ∀ k < bitLenOf s .buf1, bit s .buf0 (p + k) = bit s .buf1 k := by
  simp only [matchList, List.mem_filter, List.mem_range'_1, isMatch, needleAt, Bool.and_eq_true, decide_eq_true_eq,
    List.all_eq_true, List.mem_range, beq_iff_eq, Bool.or_eq_true, Bool.not_eq_true']
  constructor
  · rintro ⟨-, ⟨⟨h1, h2⟩, h3⟩, h4⟩
    exact ⟨h1, h2, fun h => by simpa [h] using h3, h4⟩
  · rintro ⟨h1, h2, h3, h4⟩
    exact ⟨⟨h1, by omega⟩, ⟨⟨h1, h2⟩, by cases ba <;> simp_all⟩, h4⟩

/-- The match list rises strictly. -/
theorem matchList_pairwise (s : State) (st en : Nat) (ba : Bool) : (matchList s st en ba).Pairwise (· < ·) :=
  List.Pairwise.filter _ List.pairwise_lt_range'

/-- Everything the search checks can do (R191). -/
theorem searchError_cases (s : State) (st en : Nat) :
    (bitLenOf s .buf1 = 0 ∧ searchError s st en = some .value) ∨
    (bitLenOf s .buf1 ≠ 0 ∧ (en < st ∨ bitLenOf s .buf0 < en) ∧ searchError s st en = some .index) ∨
    (bitLenOf s .buf1 ≠ 0 ∧ st ≤ en ∧ en ≤ bitLenOf s .buf0 ∧ searchError s st en = none) := by
  unfold searchError
  by_cases h1 : bitLenOf s .buf1 = 0
  · exact .inl ⟨h1, by simp [h1]⟩
  · by_cases h2 : en < st ∨ bitLenOf s .buf0 < en
    · exact .inr (.inl ⟨h1, h2, by simp [h1, h2]⟩)
    · exact .inr (.inr ⟨h1, by omega, by omega, by simp [h1, h2]⟩)

/-- Everything the end of a search does, in one update (R192). -/
theorem completeSearch_eq (p : Option Nat) (s : State) :
    completeSearch p s = { s with
      res := p.elim notFound zext128
      found := p.isSome
      err := false, errCode := 0#4, lastOp := pendOp s, busy := false } := by
  cases p <;> rfl

/-- Everything a search does to the iterator, in one update (R194, R195). -/
theorem advanceFa_eq (p : Option Nat) (en : Nat) (ba : Bool) (s : State) :
    advanceFa p en ba s = { s with
      faNext := BitVec.ofNat 32 (p.elim en fun q => q + searchStep ba)
      faActive := p.isSome } := by
  cases p <;> rfl

end Sys2Proof.Machine
end

