-- ==== Sys2Proof/Laws/Commands.lean ====
section
/-! SUPPORT. Everything a command's completion can do, said once: error completion, or the one update of its family. -/

namespace Sys2Proof.Machine

/-- The commands that only read: on success they give a result and nothing else. -/
def isReader : Instr → Bool
  | .getBit _ | .getByteRange _ | .extract _ _ | .readUintBe _ | .readUintLe _ | .readUintNe _
  | .readIntBe _ | .readIntLe _ | .readIntNe _ | .nfDecode _ _ | .nfLookup _ => true
  | _ => false

/-- What the unsigned reads can do. -/
theorem readUint_cases (e : Endian) (l : Numbering) (s : State) :
    (∃ x, x ≠ .illegal ∧ readUint e l s = .next (raiseErr x s)) ∨
    ∃ u, intField e l s = .ok u ∧ readUint e l s = .next (complete (zext128 u) s) := by
  rcases intField_cases e l s with ⟨_, h⟩ | ⟨_, _, h⟩ | ⟨_, _, _, h⟩ | ⟨_, _, _, h⟩
  · exact .inl ⟨.interpret, by decide, by simp only [readUint, h]⟩
  · exact .inl ⟨.byteAlign, by decide, by simp only [readUint, h]⟩
  · exact .inl ⟨.index, by decide, by simp only [readUint, h]⟩
  · exact .inr ⟨_, h, by simp only [readUint, h]⟩

/-- What the signed reads can do. -/
theorem readInt_cases (e : Endian) (l : Numbering) (s : State) :
    (∃ x, x ≠ .illegal ∧ readInt e l s = .next (raiseErr x s)) ∨
    ∃ u, intField e l s = .ok u ∧ readInt e l s = .next (complete (sext128 (signedValue u (operand1 s))) s) := by
  rcases intField_cases e l s with ⟨_, h⟩ | ⟨_, _, h⟩ | ⟨_, _, _, h⟩ | ⟨_, _, _, h⟩
  · exact .inl ⟨.interpret, by decide, by simp only [readInt, h]⟩
  · exact .inl ⟨.byteAlign, by decide, by simp only [readInt, h]⟩
  · exact .inl ⟨.index, by decide, by simp only [readInt, h]⟩
  · exact .inr ⟨_, h, by simp only [readInt, h]⟩

/-- The end of a search that the checks let through. -/
def searched (i : Instr) (s : State) : State :=
  match i with
  | .find ba => completeSearch (matchList s (operand0 s) (operand1 s) ba).head? s
  | .rfind ba => completeSearch (matchList s (operand0 s) (operand1 s) ba).getLast? s
  | .findallFirst ba =>
    completeSearch (matchList s (operand0 s) (operand1 s) ba).head?
      (advanceFa (matchList s (operand0 s) (operand1 s) ba).head? (operand1 s) ba
        { s with faEnd := BitVec.ofNat 32 (operand1 s), faBa := ba })
  | _ => s

/-- The commands whose searches are checked (R191). -/
def isCheckedSearch : Instr → Bool
  | .find _ | .rfind _ | .findallFirst _ => true
  | _ => false

/-- What FIND, RFIND and FINDALL_FIRST can do. -/
theorem exec_search_cases (i : Instr) (s : State) (hi : isCheckedSearch i = true) :
    (∃ x, x ≠ .illegal ∧ exec i s = .next (raiseErr x s)) ∨
    (bitLenOf s .buf1 ≠ 0 ∧ operand0 s ≤ operand1 s ∧ operand1 s ≤ bitLenOf s .buf0) ∧
      exec i s = .next (searched i s) := by
  rcases searchError_cases s (operand0 s) (operand1 s) with ⟨_, h⟩ | ⟨_, _, h⟩ | ⟨h1, h2, h3, h⟩
  · refine .inl ⟨.value, by decide, ?_⟩
    cases i <;> simp_all [isCheckedSearch, exec, execFind, execRfind, execFindallFirst]
  · refine .inl ⟨.index, by decide, ?_⟩
    cases i <;> simp_all [isCheckedSearch, exec, execFind, execRfind, execFindallFirst]
  · refine .inr ⟨⟨h1, h2, h3⟩, ?_⟩
    cases i <;> simp_all [isCheckedSearch, exec, execFind, execRfind, execFindallFirst, searched]

/-- Everything a command can do, by family. -/
theorem exec_cases (i : Instr) (s : State) :
    (∃ x, x ≠ .illegal ∧ exec i s = .next (raiseErr x s)) ∨
    (i = .nop ∧ exec i s = .next (completeNoResult s)) ∨
    (∃ b, i = .zeros b ∧ operand0 s ≤ 8 * s.params.capBytes ∧
      exec i s = .next (completeNoResult (constructZeros b (operand0 s) s))) ∨
    (∃ b, i = .load b ∧ operand2 s ≤ s.params.capBytes ∧ operand0 s < 8 ∧ operand0 s + operand1 s ≤ 8 * operand2 s ∧
      exec i s =
        .next (completeNoResult (deactivateFa (setBufRegs s b (loadedBuffer (operand0 s) (operand1 s)))))) ∨
    (isReader i = true ∧ ∃ r, exec i s = .next (complete r s)) ∨
    (∃ n, i = .fmtBuild n ∧ fmtLegal s.fmt[n] = true ∧ exec i s = .next (completeNoResult (buildSlot n s))) ∨
    (isCheckedSearch i = true ∧
      (bitLenOf s .buf1 ≠ 0 ∧ operand0 s ≤ operand1 s ∧ operand1 s ≤ bitLenOf s .buf0) ∧
      exec i s = .next (searched i s)) ∨
    (i = .findallNext ∧ s.faActive = false ∧ exec i s = .next (completeSearch none s)) ∨
    (i = .findallNext ∧ s.faActive = true ∧
      exec i s = .next (completeSearch (matchList s s.faNext.toNat s.faEnd.toNat s.faBa).head?
        (advanceFa (matchList s s.faNext.toNat s.faEnd.toNat s.faBa).head? s.faEnd.toNat s.faBa s))) := by
  have reader : isReader i = true → ((∃ x, x ≠ ErrorCode.illegal ∧ exec i s = .next (raiseErr x s)) ∨
      ∃ r, exec i s = .next (complete r s)) := by
    intro hi
    cases i <;> simp only [isReader, Bool.false_eq_true] at hi
    case getBit l =>
      simp only [exec, execGetBit]; split
      · exact .inl ⟨.index, by decide, rfl⟩
      · exact .inr ⟨_, rfl⟩
    case getByteRange l =>
      simp only [exec, execGetByteRange]; split
      · exact .inl ⟨.index, by decide, rfl⟩
      · exact .inr ⟨_, rfl⟩
    case extract l p =>
      simp only [exec, execExtract]; split
      · exact .inl ⟨.interpret, by decide, rfl⟩
      · split
        · exact .inl ⟨.index, by decide, rfl⟩
        · exact .inr ⟨_, rfl⟩
    case nfDecode l n =>
      simp only [exec, execNfDecode]; split
      · split
        · exact .inl ⟨.index, by decide, rfl⟩
        · exact .inr ⟨_, rfl⟩
      · exact .inl ⟨.interpret, by decide, rfl⟩
    case nfLookup n =>
      simp only [exec, execNfLookup]; split
      · split
        · exact .inl ⟨.index, by decide, rfl⟩
        · exact .inr ⟨_, rfl⟩
      · exact .inl ⟨.interpret, by decide, rfl⟩
    case readUintBe l => exact (readUint_cases .be l s).imp id fun ⟨_, _, h⟩ => ⟨_, h⟩
    case readUintLe l => exact (readUint_cases .le l s).imp id fun ⟨_, _, h⟩ => ⟨_, h⟩
    case readUintNe l => exact (readUint_cases .ne l s).imp id fun ⟨_, _, h⟩ => ⟨_, h⟩
    case readIntBe l => exact (readInt_cases .be l s).imp id fun ⟨_, _, h⟩ => ⟨_, h⟩
    case readIntLe l => exact (readInt_cases .le l s).imp id fun ⟨_, _, h⟩ => ⟨_, h⟩
    case readIntNe l => exact (readInt_cases .ne l s).imp id fun ⟨_, _, h⟩ => ⟨_, h⟩
  by_cases hr : isReader i = true
  · rcases reader hr with h | h
    · exact .inl h
    · exact .inr (.inr (.inr (.inr (.inl ⟨hr, h⟩))))
  by_cases hs : isCheckedSearch i = true
  · rcases exec_search_cases i s hs with h | ⟨h1, h2⟩
    · exact .inl h
    · exact .inr (.inr (.inr (.inr (.inr (.inr (.inl ⟨hs, h1, h2⟩))))))
  cases i <;> simp only [isReader, isCheckedSearch, not_true, Bool.false_eq_true, not_false_eq_true] at hr hs
  case nop => exact .inr (.inl ⟨rfl, rfl⟩)
  case zeros b =>
    by_cases h : 8 * s.params.capBytes < operand0 s
    · exact .inl ⟨.creation, by decide, by simp only [exec, execZeros, h, if_true]⟩
    · exact .inr (.inr (.inl ⟨b, rfl, by omega, by simp only [exec, execZeros, h, if_false]⟩))
  case load b =>
    by_cases h : s.params.capBytes < operand2 s
    · exact .inl ⟨.creation, by decide, by simp only [exec, execLoad, h, if_true]⟩
    by_cases h' : 8 ≤ operand0 s
    · exact .inl ⟨.creation, by decide, by simp only [exec, execLoad, h, h', if_true, if_false]⟩
    by_cases h'' : 8 * operand2 s < operand0 s + operand1 s
    · exact .inl ⟨.creation, by decide, by simp only [exec, execLoad, h, h', h'', if_true, if_false]⟩
    · exact .inr (.inr (.inr (.inl ⟨b, rfl, by omega, by omega, by omega,
        by simp only [exec, execLoad, h, h', h'', if_false]⟩)))
  case fmtBuild n =>
    by_cases h : fmtLegal s.fmt[n] = true
    · exact .inr (.inr (.inr (.inr (.inr (.inl ⟨n, rfl, h, by simp only [exec, execFmtBuild, h, if_true]⟩)))))
    · exact .inl ⟨.interpret, by decide, by simp only [exec, execFmtBuild, h]; rfl⟩
  case findallNext =>
    by_cases h : s.faActive = true
    · exact .inr (.inr (.inr (.inr (.inr (.inr (.inr (.inr ⟨rfl, h, by
        simp only [exec, execFindallNext, h, if_true]⟩)))))))
    · exact .inr (.inr (.inr (.inr (.inr (.inr (.inr (.inl ⟨rfl, by simpa using h, by
        simp only [exec, execFindallNext, h]; rfl⟩)))))))

end Sys2Proof.Machine
end

