-- ==== Sys2Proof/Laws/Tables.lean ====
section
/-! SUPPORT. The laws of the lookup tables (R41, R166). -/

namespace Sys2Proof.Machine

theorem lutFind_append (t u : LutTable) (c : Nat) : lutFind (t ++ u) c = (lutFind t c).or (lutFind u c) := by
  induction t with
  | nil => simp [lutFind]
  | cons e t ih =>
    obtain ⟨k, v⟩ := e
    by_cases h : k = c <;> simp [lutFind, h, ih]

theorem lutFind_map (l : List Nat) (f : Nat → Word) (c : Nat) :
    lutFind (l.map fun k => (k, f k)) c = if c ∈ l then some (f c) else none := by
  induction l with
  | nil => simp [lutFind]
  | cons k l ih =>
    by_cases h : k = c
    · simp [lutFind, h]
    · simp [lutFind, h, ih, Ne.symm h]

theorem lutFind_filter (t : LutTable) (n c : Nat) (h : n ≤ c) :
    lutFind (t.filter fun e => decide (n ≤ e.1)) c = lutFind t c := by
  induction t with
  | nil => rfl
  | cons e t ih =>
    obtain ⟨k, v⟩ := e
    by_cases hk : n ≤ k
    · by_cases hc : k = c
      · subst hc; simp [lutFind, hk]
      · simp [lutFind, hk, hc, ih]
    · simp [lutFind, hk, ih, show k ≠ c by omega]

/-- A rewritten table holds the new entries below n and the old ones from n on (R166). -/
theorem lutFind_lutRewrite (t : LutTable) (n : Nat) (f : Nat → Word) (c : Nat) :
    lutFind (lutRewrite t n f) c = if c < n then some (f c) else lutFind t c := by
  simp only [lutRewrite, lutFind_append, lutFind_map, List.mem_range]
  by_cases h : c < n
  · simp [h]
  · simp [h, lutFind_filter t n c (by omega)]

end Sys2Proof.Machine
end

