-- ==== Sys2Proof/Laws/Formats.lean ====
section
/-! SUPPORT. Legal parameters and legal format descriptors as propositions, the size of a code, and what FMT_BUILD leaves
in every table (R6, R160, R161, R165, R166). -/

namespace Sys2Proof

theorem Params.wf_iff (p : Params) :
    p.wf = true ↔ 1 ≤ p.capBytes ∧ p.capBytes ≤ 16777216 ∧ p.base % 67108864 = 0 := by
  simp only [Params.wf, Bool.and_eq_true, decide_eq_true_eq, and_assoc]

end Sys2Proof

namespace Sys2Proof.Machine

theorem fmtLegal_iff (f : BitVec 16) :
    fmtLegal f = true ↔ 1 ≤ fmtE f ∧ fmtE f + fmtM f ≤ 7 ∧ fmtBias f + fmtM f ≤ 150 := by
  simp only [fmtLegal, Bool.and_eq_true, decide_eq_true_eq, and_assoc]

theorem codeWidth_le (f : BitVec 16) : codeWidth f ≤ 15 := by
  have h1 := (f.extractLsb' 0 3).isLt
  have h2 := (f.extractLsb' 3 3).isLt
  unfold codeWidth fmtE fmtM
  omega

theorem codeClass_lt (f : BitVec 16) (c : Nat) : codeClass f c < 3 := by
  unfold codeClass
  split_ifs <;> omega

/-- Every entry of every table after a successful FMT_BUILD of slot n (R166). -/
theorem lutWord_buildSlot (n m : Slot) (s : State) (c : Nat) :
    lutWord (buildSlot n s) m c =
      if m = n ∧ c < 2 ^ codeWidth s.fmt[n] then toB32 (decodeValue s.fmt[n] c) else lutWord s m c := by
  unfold lutWord buildSlot setFmtValid
  simp only [Fin.getElem_fin, Vector.getElem_set]
  by_cases h : m = n
  · subst h
    simp only [if_true, builtTable, lutFind_lutRewrite, true_and]
    split <;> simp
  · have hne : ¬ n.val = m.val := fun e => h (Fin.ext e.symm)
    simp [h, hne]

end Sys2Proof.Machine
end

