-- ==== Sys2Proof/Laws/PerInstr.lean ====
section
/-! SUPPORT. Statements about every instruction as syntax, one lemma per constructor of `Instr`. -/

/-- The command word of an instruction breaks none of the clauses of R94. -/
def Sys2Proof.Laws.EncodedWordLegal.Statement (i : Sys2Proof.Instr) : Prop :=
  Sys2Proof.wordLegal (Sys2Proof.encode i) = true

namespace Sys2Proof.Laws.EncodedWordLegal

open Sys2Proof

theorem nop : Statement .nop := rfl

theorem zeros (b : BufSel) : Statement (.zeros b) := by cases b <;> rfl

theorem load (b : BufSel) : Statement (.load b) := by cases b <;> rfl

theorem getBit (l : Numbering) : Statement (.getBit l) := by cases l <;> rfl

theorem getByteRange (l : Numbering) : Statement (.getByteRange l) := by cases l <;> rfl

theorem extract (l : Numbering) (p : Bool) : Statement (.extract l p) := by cases l <;> cases p <;> rfl

theorem readUintBe (l : Numbering) : Statement (.readUintBe l) := by cases l <;> rfl

theorem readUintLe (l : Numbering) : Statement (.readUintLe l) := by cases l <;> rfl

theorem readUintNe (l : Numbering) : Statement (.readUintNe l) := by cases l <;> rfl

theorem readIntBe (l : Numbering) : Statement (.readIntBe l) := by cases l <;> rfl

theorem readIntLe (l : Numbering) : Statement (.readIntLe l) := by cases l <;> rfl

theorem readIntNe (l : Numbering) : Statement (.readIntNe l) := by cases l <;> rfl

theorem fmtBuild (n : Slot) : Statement (.fmtBuild n) := by fin_cases n <;> rfl

theorem nfDecode (l : Numbering) (n : Slot) : Statement (.nfDecode l n) := by cases l <;> fin_cases n <;> rfl

theorem nfLookup (n : Slot) : Statement (.nfLookup n) := by fin_cases n <;> rfl

theorem find (ba : Bool) : Statement (.find ba) := by cases ba <;> rfl

theorem rfind (ba : Bool) : Statement (.rfind ba) := by cases ba <;> rfl

theorem findallFirst (ba : Bool) : Statement (.findallFirst ba) := by cases ba <;> rfl

theorem findallNext : Statement .findallNext := rfl

end Sys2Proof.Laws.EncodedWordLegal
end

