-- ==== Sys2Proof/Laws/Step.lean ====
section
/-! SUPPORT. Everything a step can do, said once: the turn it takes, a host access's effect, a register write's effect. -/

namespace Sys2Proof.Machine

/-- The completion step runs the decoded command, or is the error completion ILLEGAL. -/
theorem completionStep_cases (s : State) :
    (∃ e, decode s.pendCmd = .error e ∧ completionStep s = .next (raiseErr .illegal s)) ∨
    ∃ i, decode s.pendCmd = .ok i ∧ completionStep s = exec i s := by
  cases h : decode s.pendCmd with
  | error e => exact .inl ⟨e, rfl, by simp only [completionStep, h]⟩
  | ok i => exact .inr ⟨i, rfl, by simp only [completionStep, h]⟩

/-- The engine's turn: idle, an illegal word, or a command. -/
theorem engineStep_cases (s : State) :
    (s.busy = false ∧ engineStep s = .next s) ∨
    (s.busy = true ∧ ∃ e, decode s.pendCmd = .error e ∧ engineStep s = .next (raiseErr .illegal s)) ∨
    (s.busy = true ∧ ∃ i, decode s.pendCmd = .ok i ∧ engineStep s = exec i s) := by
  cases hb : s.busy with
  | false => exact .inl ⟨rfl, by simp [engineStep, hb]⟩
  | true =>
    rcases completionStep_cases s with ⟨e, h1, h2⟩ | ⟨i, h1, h2⟩
    · exact .inr (.inl ⟨rfl, e, h1, by simp [engineStep, hb, h2]⟩)
    · exact .inr (.inr ⟨rfl, i, h1, by simp [engineStep, hb, h2]⟩)

/-- What a register write does to the block. -/
theorem regWrite_cases (r : Reg) (v : Word) (s : State) :
    (r = .ctrl ∧ regWrite r v s = ctrlWrite v s) ∨
    ((r = .cmd ∨ ∃ n, r = .fmt n) ∧ s.busy = true ∧ regWrite r v s = setOvr s) ∨
    (r = .cmd ∧ s.busy = false ∧ regWrite r v s = acceptCommand v s) ∨
    (r = .arg0 ∧ regWrite r v s = { s with arg0 := v }) ∨
    (r = .arg1 ∧ regWrite r v s = { s with arg1 := v }) ∨
    (r = .arg2 ∧ regWrite r v s = { s with arg2 := v }) ∨
    (∃ n, r = .fmt n ∧ s.busy = false ∧ regWrite r v s = fmtWrite n v s) ∨
    regWrite r v s = s := by
  cases r <;> cases hb : s.busy <;> simp [regWrite, hb]

/-- What CTRL does: the soft reset, OVR cleared alone, or nothing. -/
theorem ctrlWrite_cases (v : Word) (s : State) :
    ctrlWrite v s = softReset s ∨ ctrlWrite v s = { s with ovr := false } ∨ ctrlWrite v s = s := by
  unfold ctrlWrite
  cases v.getLsbD 0 <;> cases v.getLsbD 1 <;> simp [softReset]

/-- What a window write does to the block. -/
theorem windowWrite_cases (b : BufSel) (i : Nat) (w : Width) (v : Word) (s : State) :
    (s.busy = true ∧ windowWrite b i w v s = setOvr s) ∨
    (s.busy = false ∧ windowWrite b i w v s = setRam s b (memStore (ramOf s b) i v (widthBytes w))) := by
  cases hb : s.busy <;> simp [windowWrite, hb]

/-- A host access at an offset that reaches nothing, a register or a window. -/
theorem targetOf_window {p : Params} {a : Nat} {w : Width} {b : BufSel} {i : Nat}
    (h : targetOf p a w = some (.window b i)) : i % widthBytes w = 0 ∧ i + widthBytes w ≤ p.capBytes := by
  unfold targetOf at h
  split at h
  · split at h <;> simp at h
  split at h
  · simp at h
  split at h
  · split at h
    · rename_i hl
      simp only [windowLegal, Bool.and_eq_true, beq_iff_eq, decide_eq_true_eq] at hl
      cases h; exact hl
    · simp at h
  split at h
  · split at h
    · rename_i hl
      simp only [windowLegal, Bool.and_eq_true, beq_iff_eq, decide_eq_true_eq] at hl
      cases h; exact hl
    · simp at h
  · simp at h

/-- Everything a read of the aperture changes: the answers, and perhaps the draws or the host's fault. -/
theorem readAt_cases (a : Nat) (w : Width) (s : State) :
    (targetOf s.params a w = none ∧ readAt a w s = busError s) ∨
    (∃ v, readAt a w s = respond (.data v) s) ∨
    ∃ v b i, targetOf s.params a w = some (.window b i) ∧ zerosPending s b = true ∧
      readAt a w s = respond (.data v) { s with draws := s.draws + 1 } := by
  cases h : targetOf s.params a w with
  | none => exact .inl ⟨rfl, by simp only [readAt, h]⟩
  | some t =>
    cases t with
    | reg r => exact .inr (.inl ⟨_, by simp only [readAt, h, hostRead]; rfl⟩)
    | window b i =>
      by_cases hz : zerosPending s b = true
      · exact .inr (.inr ⟨_, b, i, rfl, hz, by simp only [readAt, h, hostRead, hz, if_true]; rfl⟩)
      · exact .inr (.inl ⟨windowValue s b i w, by simp only [readAt, h, hostRead, hz]; rfl⟩)

/-- Everything a write of the aperture can do. -/
theorem writeAt_cases (a : Nat) (w : Width) (v : Word) (s : State) :
    (targetOf s.params a w = none ∧ writeAt a w v s = busError s) ∨
    (∃ r, targetOf s.params a w = some (.reg r) ∧ writeAt a w v s = respond .done (regWrite r v s)) ∨
    ∃ b i, targetOf s.params a w = some (.window b i) ∧ writeAt a w v s = respond .done (windowWrite b i w v s) := by
  cases h : targetOf s.params a w with
  | none => exact .inl ⟨rfl, by simp only [writeAt, h]⟩
  | some t =>
    cases t with
    | reg r => exact .inr (.inl ⟨r, rfl, by simp only [writeAt, h, hostWrite]⟩)
    | window b i => exact .inr (.inr ⟨b, i, rfl, by simp only [writeAt, h, hostWrite]⟩)

/-- The state an engine turn starts from: its own turn, if it was an input, is used up. -/
def engineState (s u : State) : Prop :=
  (s.inputs = [] ∧ u = s) ∨ ∃ rest, s.inputs = .engineTurn :: rest ∧ u = { s with inputs := rest }

/-- Everything a step that answers a next state can have done. -/
theorem step_cases {s t : State} (h : step s = .next t) :
    (∃ u, engineState s u ∧ u.busy = false ∧ t = u) ∨
    (∃ u e, engineState s u ∧ u.busy = true ∧ decode u.pendCmd = .error e ∧ t = raiseErr .illegal u) ∨
    (∃ u i, engineState s u ∧ u.busy = true ∧ decode u.pendCmd = .ok i ∧ exec i u = .next t) ∨
    (∃ rest, s.inputs = .powerOn :: rest ∧ t = powerOnReset { s with inputs := rest }) ∨
    (∃ addr w rest off, s.inputs = .access (.read addr w) :: rest ∧ apertureOffset s.params addr = some off ∧
      t = readAt off w { s with inputs := rest }) ∨
    ∃ addr w v rest off, s.inputs = .access (.write addr w v) :: rest ∧ apertureOffset s.params addr = some off ∧
      t = writeAt off w v { s with inputs := rest } := by
  have engine : ∀ u, engineState s u → engineStep u = .next t →
      (∃ u, engineState s u ∧ u.busy = false ∧ t = u) ∨
      (∃ u e, engineState s u ∧ u.busy = true ∧ decode u.pendCmd = .error e ∧ t = raiseErr .illegal u) ∨
      (∃ u i, engineState s u ∧ u.busy = true ∧ decode u.pendCmd = .ok i ∧ exec i u = .next t) := by
    intro u hu he
    rcases engineStep_cases u with ⟨hb, h'⟩ | ⟨hb, e, hd, h'⟩ | ⟨hb, i, hd, h'⟩ <;> rw [h'] at he
    · exact .inl ⟨u, hu, hb, by injection he with he; exact he.symm⟩
    · exact .inr (.inl ⟨u, e, hu, hb, hd, by injection he with he; exact he.symm⟩)
    · exact .inr (.inr ⟨u, i, hu, hb, hd, he⟩)
  unfold step at h
  split at h
  · rename_i hq
    rcases engine s (.inl ⟨hq, rfl⟩) h with h | h | h
    · exact .inl h
    · exact .inr (.inl h)
    · exact .inr (.inr (.inl h))
  · rename_i i rest hq
    cases i with
    | engineTurn =>
      rcases engine _ (.inr ⟨rest, hq, rfl⟩) h with h | h | h
      · exact .inl h
      · exact .inr (.inl h)
      · exact .inr (.inr (.inl h))
    | powerOn =>
      injection h with h
      exact .inr (.inr (.inr (.inl ⟨rest, hq, h.symm⟩)))
    | access a =>
      cases a with
      | read addr w =>
        simp only [inputStep, hostStep] at h
        split at h
        · cases h
        · rename_i off ho
          injection h with h
          exact .inr (.inr (.inr (.inr (.inl ⟨addr, w, rest, off, hq, ho, h.symm⟩))))
      | write addr w v =>
        simp only [inputStep, hostStep] at h
        split at h
        · cases h
        · rename_i off ho
          injection h with h
          exact .inr (.inr (.inr (.inr (.inr ⟨addr, w, v, rest, off, hq, ho, h.symm⟩))))

end Sys2Proof.Machine
end

