-- ==== Sys2Proof/Tests/Slice0.lean ====
section
/-! SUPPORT. The model's own tests: ill-formed words, words written out from R86 and R87, one step per command on the
vectors of 95_test_vectors.md, and a witness for the hypotheses of every obligation that has some. -/

namespace Sys2Proof.Tests

open Sys2Proof.Machine Sys2Proof.Rules

/-! ### Small states -/

/-- A block right after power-on reset with 32 bytes of storage and NATIVE_LE = 1 (the convention of 95_test_vectors.md). -/
def blank : State := { State.reset with params := { capBytes := 32, nativeLe := true, base := 0 } }

/-- Storage bytes written from index 0 on. -/
def bytesAt : Nat → List Byte → Memory
  | _, [] => []
  | i, v :: vs => (i, v) :: bytesAt (i + 1) vs

/-- Buffer b over the given bytes. -/
def withBytes (b : BufSel) (vs : List Byte) (o : BitVec 3) (n : Word) (nb : Word) (s : State) : State :=
  withRam (withBuffer s b { offset := o, bitLen := n, nBytes := nb }) b (bytesAt 0 vs)

/-- Setup SA: B3 80, 12 bits. -/
def setupA : State := withBytes .buf0 [0xB3#8, 0x80#8] 0#3 12#32 2#32 blank
/-- Setup SB: 12 34 56, 16 bits at offset 4. -/
def setupB : State := withBytes .buf0 [0x12#8, 0x34#8, 0x56#8] 4#3 16#32 3#32 blank
/-- Setup SC: 00 80, 16 bits. -/
def setupC : State := withBytes .buf0 [0x00#8, 0x80#8] 0#3 16#32 2#32 blank
/-- Setup SF: 38 7F, 16 bits. -/
def setupF : State := withBytes .buf0 [0x38#8, 0x7F#8] 0#3 16#32 2#32 blank
/-- Setup SH: haystack 00 A5 0A 50, needle 1010. -/
def setupH : State :=
  withBytes .buf1 [0xA0#8] 0#3 4#32 1#32 (withBytes .buf0 [0x00#8, 0xA5#8, 0x0A#8, 0x50#8] 0#3 32#32 4#32 blank)

/-- A command accepted with these operands. -/
def issue (w x y z : Word) (s : State) : State :=
  { s with pendCmd := w, pendArg0 := x, pendArg1 := y, pendArg2 := z, busy := true }

/-- Slot 0 given descriptor f, not built. -/
def withFormat (f : BitVec 16) (s : State) : State := { s with fmt := #v[f, 0#16, 0#16, 0#16] }

/-- Slot 0 built for descriptor f. -/
def withTable (f : BitVec 16) (s : State) : State := buildSlot 0 (withFormat f s)

/-- What the next step leaves in a view of the state. -/
def after {α : Type} (f : State → α) (s : State) : Option α :=
  match step s with
  | .next t => some (f t)
  | _ => none

/-- RES and STATUS as numbers. -/
def outputs (s : State) : Nat × Nat := (s.res.toNat, (statusWord s).toNat)

/-- STATUS as a number. -/
def status (s : State) : Nat := (statusWord s).toNat

/-- The iterator registers. -/
def iterator (s : State) : Nat × Nat × Nat := (s.faNext.toNat, s.faEnd.toNat, (faCtlWord s).toNat)

/-! ### WellFormed refuses ill-formed words and parameters -/

theorem test_wf_refuses_reserved_op : wordOpKnown 0x00000003#32 = false := by decide
theorem test_wf_refuses_high_bits : wordHighZero 0x00010000#32 = false := by decide
theorem test_wf_refuses_untaken_field : wordFieldsZero 0x00000110#32 = false := by decide
theorem test_wf_refuses_end_three : wordEndLegal 0x00003010#32 = false := by decide
theorem test_wf_refuses_words : [0x00000003#32, 0x00010000#32, 0x00000110#32, 0x00003010#32, 0x00003011#32,
    0x00000433#32, 0x00000830#32, 0x00001008#32, 0x00004001#32, 0xFFFFFFFF#32].any wordLegal = false := by decide
theorem test_wf_refuses_parameters :
    Params.wf { capBytes := 0, nativeLe := false, base := 0 } = false ∧
    Params.wf { capBytes := 16777217, nativeLe := false, base := 0 } = false ∧
    Params.wf { capBytes := 1, nativeLe := false, base := 4096 } = false := by decide

/-! ### Decoding: words written out from R86 and R87, the examples of R98 and R100 among them -/

theorem test_decode_construction_words :
    decode 0x00000000#32 = .ok .nop ∧ decode 0x00000001#32 = .ok (.zeros .buf0) ∧
    decode 0x00000101#32 = .ok (.zeros .buf1) ∧ decode 0x00000002#32 = .ok (.load .buf0) ∧
    decode 0x00000102#32 = .ok (.load .buf1) := by decide
theorem test_decode_field_words :
    decode 0x00000008#32 = .ok (.getBit .msb0) ∧ decode 0x00000208#32 = .ok (.getBit .lsb0) ∧
    decode 0x00000209#32 = .ok (.getByteRange .lsb0) ∧ decode 0x0000080A#32 = .ok (.extract .msb0 true) ∧
    decode 0x0000020A#32 = .ok (.extract .lsb0 false) := by decide
theorem test_decode_integer_words :
    decode 0x00000010#32 = .ok (.readUintBe .msb0) ∧ decode 0x00001210#32 = .ok (.readUintLe .lsb0) ∧
    decode 0x00002010#32 = .ok (.readUintNe .msb0) ∧ decode 0x00000211#32 = .ok (.readIntBe .lsb0) ∧
    decode 0x00001011#32 = .ok (.readIntLe .msb0) ∧ decode 0x00002211#32 = .ok (.readIntNe .lsb0) := by decide
theorem test_decode_narrow_float_words :
    decode 0x0000C020#32 = .ok (.fmtBuild 3) ∧ decode 0x00004221#32 = .ok (.nfDecode .lsb0 1) ∧
    decode 0x00008022#32 = .ok (.nfLookup 2) := by decide
theorem test_decode_finder_words :
    decode 0x00000430#32 = .ok (.find true) ∧ decode 0x00000031#32 = .ok (.rfind false) ∧
    decode 0x00000432#32 = .ok (.findallFirst true) ∧ decode 0x00000033#32 = .ok .findallNext := by decide
theorem test_table_words_decode :
    decodeTableWord 32 0x00000000 = some .nop ∧ decodeTableWord 32 0x00000009 = some (.getByteRange .msb0) ∧
    decodeTableWord 32 0x00002011 = some (.readIntNe .msb0) ∧ decodeTableWord 32 0x00000022 = some (.nfLookup 0) ∧
    decodeTableWord 32 0x00003010 = none := by decide
theorem test_encode_writes_fields :
    encode (.nfDecode .lsb0 3) = 0x0000C221#32 ∧ encode (.extract .lsb0 true) = 0x00000A0A#32 ∧
    encode (.readIntNe .lsb0) = 0x00002211#32 ∧ encode (.load .buf1) = 0x00000102#32 := by decide

/-! ### The first instruction after reset -/

/-- The words of the table, as the first command after reset: which word leaves which STATUS. -/
theorem test_first_command_after_reset :
    ([0x00, 0x01, 0x101, 0x02, 0x102, 0x08, 0x09, 0x0A, 0x10, 0x1010, 0x2010, 0x11, 0x1011, 0x2011, 0x20, 0x21, 0x22, 0x30, 0x31, 0x32, 0x33].map
      fun w => after status (State.reset.withFetchWord 32 w)) =
    [some 0x0, some 0x10000, some 0x10000, some 0x20000, some 0x20000, some 0x80502, some 0x90000, some 0xA0000,
      some 0x100202, some 0x100202, some 0x100202, some 0x110202, some 0x110202, some 0x110202, some 0x200202, some 0x210202, some 0x220202, some 0x300702, some 0x310702,
      some 0x320702, some 0x330000] := by decide

/-! ### One step per command (95_test_vectors.md) -/

/-- VE1. -/
theorem test_nop_clears_error : after outputs (issue 0#32 0#32 0#32 0#32 { blank with err := true, errCode := 5#4 }) =
    some (0, 0) := by decide
/-- VE15: ILLEGAL outranks INTERPRET. -/
theorem test_illegal_word_first : after outputs (issue 0x3011#32 0#32 0#32 0#32 blank) = some (0, 0x110602) := by decide
/-- VB1. -/
theorem test_zeros_twelve_bits : after (fun s => (s.buf0, s.ram0, status s)) (issue 0x1#32 12#32 0#32 0#32 blank) =
    some ({ offset := 0#3, bitLen := 12#32, nBytes := 2#32 }, [(0, 0#8), (1, 0#8)], 0x10000) := by decide
/-- VB3. -/
theorem test_zeros_above_capacity : after (fun s => (s.buf0, status s)) (issue 0x1#32 257#32 0#32 0#32 blank) =
    some (Buffer.empty, 0x10102) := by decide
/-- VB6, VB11. -/
theorem test_load_at_offset :
    after (fun s => s.buf0) (issue 0x2#32 4#32 16#32 3#32 blank) =
      some { offset := 4#3, bitLen := 16#32, nBytes := 3#32 } ∧
    after (fun s => s.buf0) (issue 0x2#32 4#32 12#32 3#32 blank) =
      some { offset := 4#3, bitLen := 12#32, nBytes := 2#32 } := by decide
/-- VB9, VB7, VB8. -/
theorem test_load_empty_and_errors :
    after (fun s => (s.buf0, status s)) (issue 0x2#32 3#32 0#32 1#32 setupA) = some (Buffer.empty, 0x20000) ∧
    after status (issue 0x2#32 8#32 0#32 1#32 blank) = some 0x20102 ∧
    after status (issue 0x2#32 4#32 5#32 1#32 blank) = some 0x20102 := by decide
/-- VB23, VB20. -/
theorem test_get_bit : after outputs (issue 0x8#32 2#32 0#32 0#32 setupB) = some (1, 0x80000) ∧
    after outputs (issue 0x208#32 3#32 0#32 0#32 setupA) = some (1, 0x80000) := by decide
/-- VB17. -/
theorem test_get_bit_past_end : after outputs (issue 0x8#32 12#32 0#32 0#32 setupA) = some (0, 0x80502) := by decide
/-- VB26, VB30. -/
theorem test_get_byte_range :
    after outputs (issue 0x9#32 3#32 5#32 0#32 setupB) = some (2 * 2 ^ 32, 0x90000) ∧
    after outputs (issue 0x209#32 0#32 4#32 0#32 setupB) = some (2 + 2 ^ 32, 0x90000) := by decide
/-- VB28, VB31. -/
theorem test_get_byte_range_edges :
    after outputs (issue 0x9#32 16#32 16#32 0#32 setupB) = some (2, 0x90000) ∧
    after outputs (issue 0x9#32 5#32 4#32 0#32 setupB) = some (0, 0x90502) := by decide
/-- VB35, VB36. -/
theorem test_extract_pads : after outputs (issue 0xA#32 2#32 5#32 0#32 setupA) = some (0x19, 0xA0000) ∧
    after outputs (issue 0x80A#32 2#32 5#32 0#32 setupA) = some (0xC8, 0xA0000) := by decide
/-- VB38, VB42. -/
theorem test_extract_reversed : after outputs (issue 0xA0A#32 0#32 4#32 0#32 setupA) = some (0x80, 0xA0000) ∧
    after outputs (issue 0xA#32 0#32 129#32 0#32 setupA) = some (0, 0xA0202) := by decide
/-- VI1 (DOC's 2872), VI20. -/
theorem test_read_uint_be : after outputs (issue 0x10#32 0#32 12#32 0#32 setupA) = some (2872, 0x100000) ∧
    after outputs (issue 0x10#32 3#32 9#32 0#32 setupB) = some (0x34, 0x100000) := by decide
/-- VI18, VI9. -/
theorem test_read_uint_le : after outputs (issue 0x1010#32 0#32 16#32 0#32 setupB) = some (0x4523, 0x100000) ∧
    after outputs (issue 0x1010#32 8#32 12#32 0#32 setupA) = some (0, 0x100402) := by decide
/-- VI25, both byte orders. -/
theorem test_read_uint_ne : after outputs (issue 0x2010#32 0#32 16#32 0#32 setupB) = some (0x4523, 0x100000) ∧
    after outputs (issue 0x2010#32 0#32 16#32 0#32
      { setupB with params := { capBytes := 32, nativeLe := false, base := 0 } }) = some (0x2345, 0x100000) := by decide
/-- VI2, VI16. -/
theorem test_read_int_be : after outputs (issue 0x11#32 0#32 12#32 0#32 setupA) = some (2 ^ 128 - 1224, 0x110000) ∧
    after outputs (issue 0x211#32 0#32 4#32 0#32 setupA) = some (2 ^ 128 - 8, 0x110000) := by decide
/-- VI27. -/
theorem test_read_int_le : after outputs (issue 0x1011#32 0#32 16#32 0#32 setupC) = some (2 ^ 128 - 32768, 0x110000) := by
  decide
/-- VI29 and its NATIVE_LE = 0 half. -/
theorem test_read_int_ne : after outputs (issue 0x2011#32 0#32 16#32 0#32 setupC) = some (2 ^ 128 - 32768, 0x110000) ∧
    after outputs (issue 0x2011#32 0#32 16#32 0#32
      { setupC with params := { capBytes := 32, nativeLe := false, base := 0 } }) = some (128, 0x110000) := by decide
/-- VF1, VF2 (a short format, so that the table stays small). -/
theorem test_fmt_build : after status (issue 0x20#32 0#32 0#32 0#32 blank) = some 0x200202 ∧
    after (fun s => (status s, (lutWord s 0 7).toNat)) (issue 0x20#32 0#32 0#32 0#32 (withFormat 0x10A#16 blank)) =
      some (0x200010, 0x40C00000) := by decide
/-- VF61's field, in slot 0: code 0011 of E2M1 is 1.5. -/
theorem test_nf_decode : after outputs (issue 0x21#32 0#32 0#32 0#32 (withTable 0x10A#16 setupF)) =
    some (0x3FC00000 + 3 * 2 ^ 32, 0x210010) := by decide
/-- E2M1 code 15, and VF47's check. -/
theorem test_nf_lookup : after outputs (issue 0x22#32 15#32 0#32 0#32 (withTable 0x10A#16 blank)) =
    some (0xC0C00000 + 15 * 2 ^ 32, 0x220010) ∧
    after outputs (issue 0x22#32 16#32 0#32 0#32 (withTable 0x10A#16 blank)) = some (0, 0x220512) := by decide
/-- VF18, VF27, VF35, VF38, VF48, VF50: carve-outs and the smallest binary32 subnormal. -/
theorem test_closed_form : toB32 (decodeValue 0x075C#16 0x7F) = 0x7FC00000#32 ∧
    toB32 (decodeValue 0x0F95#16 0x7C) = 0x7F800000#32 ∧ toB32 (decodeValue 0x10D5#16 0x7F) = 0x7F800000#32 ∧
    toB32 (decodeValue 0x10D5#16 0xFF) = 0xFF800000#32 ∧ toB32 (decodeValue 0x9607#16 1) = 1#32 ∧
    toB32 (decodeValue 0x9031#16 1) = 1#32 := by decide
/-- VF12, VF16, VF53, VF11. -/
theorem test_closed_form_finite : toB32 (decodeValue 0x075C#16 1) = 0x3B000000#32 ∧
    toB32 (decodeValue 0x075C#16 0x78) = 0x43800000#32 ∧ toB32 (decodeValue 7#16 0x7E) = 0x7E800000#32 ∧
    toB32 (decodeValue 0x075C#16 0x80) = 0x80000000#32 := by decide
/-- VS4, VS3. -/
theorem test_find : after outputs (issue 0x30#32 9#32 25#32 0#32 setupH) = some (13, 0x300004) ∧
    after outputs (issue 0x430#32 9#32 32#32 0#32 setupH) = some (0xFFFFFFFF, 0x300000) := by decide
/-- VS5, VS7. -/
theorem test_rfind : after outputs (issue 0x31#32 9#32 25#32 0#32 setupH) = some (20, 0x310004) ∧
    after outputs (issue 0x431#32 0#32 32#32 0#32 setupH) = some (8, 0x310004) := by decide
/-- VS20, VS24. -/
theorem test_findall_first : after iterator (issue 0x32#32 0#32 32#32 0#32 setupH) = some (9, 32, 2) ∧
    after iterator (issue 0x432#32 0#32 32#32 0#32 setupH) = some (16, 32, 3) := by decide
/-- VS21's first step, VS22's last. -/
theorem test_findall_next :
    after (fun s => (outputs s, iterator s)) (issue 0x33#32 0#32 0#32 0#32
      { setupH with faNext := 9#32, faEnd := 32#32, faActive := true }) = some ((13, 0x330004), (14, 32, 2)) ∧
    after (fun s => (outputs s, iterator s)) (issue 0x33#32 0#32 0#32 0#32
      { setupH with faNext := 26#32, faEnd := 32#32, faActive := true }) =
      some ((0xFFFFFFFF, 0x330000), (32, 32, 0)) := by decide

/-! ### Host accesses -/

/-- A window write of 0x78563412 stores 12 34 56 78 (R66). -/
theorem test_window_write_order : after (fun s => (s.ram0, s.responses))
    (withAccess blank (.write 0x1000000 .word 0x78563412#32) []) =
    some ([(0, 0x12#8), (1, 0x34#8), (2, 0x56#8), (3, 0x78#8)], [.done]) := by decide
/-- A half-word window read at index 1 is a bus error, at index 2 it is not (R66). -/
theorem test_window_read_alignment :
    after (fun s => (s.responses, s.hostFault)) (withAccess setupB (.read 0x1000001 .half) []) =
      some ([.busError], true) ∧
    after (fun s => (s.responses, s.hostFault)) (withAccess setupB (.read 0x1000001 .byte) []) =
      some ([.data 0x34#32], false) := by decide
/-- A CMD write while BUSY = 1 is dropped and sets OVR (R245). -/
theorem test_cmd_write_dropped : after (fun s => (s.pendCmd, s.cmd, s.ovr))
    (withAccess (issue 0x8#32 0#32 0#32 0#32 blank) (.write 0x014 .word 0x1#32) []) =
    some (0x8#32, 0#32, true) := by decide

/-! ### Witnesses: the hypotheses of the obligations, met at the edges of each clause -/

/-- BUF0 of 13 bits over 01 B3 80, read at offset 4, with operands x, y, z. -/
def asked (x y z : Word) : State :=
  issue 0#32 x y z (withBytes .buf0 [0x01#8, 0xB3#8, 0x80#8] 4#3 13#32 3#32 blank)

theorem witness_DecodeEncodeAgree : decode 0x0000C221#32 = .ok (.nfDecode .lsb0 3) := by decide
theorem witness_IllegalWordCompletesWithCodeSix :
    (issue 0x3#32 0#32 0#32 0#32 blank).busy = true ∧ wordLegal (issue 0x3#32 0#32 0#32 0#32 blank).pendCmd = false ∧
    (issue 0x3#32 0#32 0#32 0#32 blank).inputs = [] ∧
    { issue 0x3#32 0#32 0#32 0#32 blank with inputs := [.engineTurn] }.inputs = [.engineTurn] := by decide
theorem witness_StepRunsDecodedInstruction :
    (issue 0x430#32 0#32 0#32 0#32 blank).busy = true ∧
    decode (issue 0x430#32 0#32 0#32 0#32 blank).pendCmd = .ok (.find true) ∧
    (issue 0x430#32 0#32 0#32 0#32 blank).inputs = [] ∧
    { issue 0x430#32 0#32 0#32 0#32 blank with inputs := [.engineTurn] }.inputs = [.engineTurn] := by decide
theorem witness_StepRunsDecodedInstruction_idle :
    blank.busy = false ∧ blank.inputs = [] ∧ { blank with inputs := [.engineTurn] }.inputs = [.engineTurn] := by decide
theorem witness_NopOnlyDoesBookkeeping : (0x00000100#32).extractLsb' 0 8 = 0#8 ∧ 0x00000100#32 ≠ 0#32 := by decide
theorem witness_ZerosConstructsZeroBuffer :
    8 * blank.params.capBytes < a0 (issue 1#32 257#32 0#32 0#32 blank) ∧
    a0 (issue 1#32 256#32 0#32 0#32 blank) ≤ 8 * blank.params.capBytes := by decide
theorem witness_LoadDeclaresBuffer_errors :
    blank.params.capBytes < a2 (asked 0#32 8#32 33#32) ∧ 8 ≤ a0 (asked 8#32 0#32 2#32) ∧
    8 * a2 (asked 4#32 5#32 1#32) < a0 (asked 4#32 5#32 1#32) + a1 (asked 4#32 5#32 1#32) := by decide
theorem witness_LoadDeclaresBuffer :
    (a2 (asked 7#32 249#32 32#32) ≤ blank.params.capBytes ∧ a0 (asked 7#32 249#32 32#32) < 8 ∧
      a0 (asked 7#32 249#32 32#32) + a1 (asked 7#32 249#32 32#32) ≤ 8 * a2 (asked 7#32 249#32 32#32)) ∧
    a0 (asked 3#32 0#32 1#32) + a1 (asked 3#32 0#32 1#32) ≤ 8 * a2 (asked 3#32 0#32 1#32) ∧
      a1 (asked 3#32 0#32 1#32) = 0 := by decide
theorem witness_GetBitReadsOneBit :
    len (asked 13#32 0#32 0#32) .buf0 ≤ a0 (asked 13#32 0#32 0#32) ∧
    a0 (asked 12#32 0#32 0#32) < len (asked 12#32 0#32 0#32) .buf0 := by decide
theorem witness_GetByteRangeGivesSpan :
    a1 (asked 5#32 4#32 0#32) < a0 (asked 5#32 4#32 0#32) ∧ len (asked 0#32 14#32 0#32) .buf0 < a1 (asked 0#32 14#32 0#32) ∧
    (a0 (asked 13#32 13#32 0#32) ≤ a1 (asked 13#32 13#32 0#32) ∧
      a1 (asked 13#32 13#32 0#32) ≤ len (asked 13#32 13#32 0#32) .buf0 ∧
      bufferWf blank.params (asked 13#32 13#32 0#32).buf0) := by decide
theorem witness_ExtractPadsFieldWithZeros :
    128 < a1 (asked 0#32 129#32 0#32) ∧
    (a1 (asked 1#32 13#32 0#32) ≤ 128 ∧
      len (asked 1#32 13#32 0#32) .buf0 < a0 (asked 1#32 13#32 0#32) + a1 (asked 1#32 13#32 0#32)) ∧
    (a1 (asked 13#32 0#32 0#32) ≤ 128 ∧
      a0 (asked 13#32 0#32 0#32) + a1 (asked 13#32 0#32 0#32) ≤ len (asked 13#32 0#32 0#32) .buf0) := by decide
theorem witness_ReversedNumberingIsSymmetric : 12 < len (asked 0#32 0#32 0#32) .buf0 ∧ (3 ≤ 13 ∧ 13 ≤ 13) := by decide
/-- The unsigned reads; the signed reads and the ranges have the same hypotheses. -/
theorem witness_UnsignedReadsReturnField :
    a1 (asked 0#32 0#32 0#32) = 0 ∧ 128 < a1 (asked 0#32 129#32 0#32) ∧
    (1 ≤ a1 (asked 0#32 1#32 0#32) ∧ Endian.le ≠ .be ∧ a1 (asked 0#32 1#32 0#32) % 8 ≠ 0) ∧
    (a1 (asked 6#32 8#32 0#32) % 8 = 0 ∧
      len (asked 6#32 8#32 0#32) .buf0 < a0 (asked 6#32 8#32 0#32) + a1 (asked 6#32 8#32 0#32)) ∧
    (1 ≤ a1 (asked 5#32 8#32 0#32) ∧ a1 (asked 5#32 8#32 0#32) ≤ 128 ∧ a1 (asked 5#32 8#32 0#32) % 8 = 0 ∧
      a0 (asked 5#32 8#32 0#32) + a1 (asked 5#32 8#32 0#32) ≤ len (asked 5#32 8#32 0#32) .buf0) := by decide
theorem witness_SignedReadsSignExtendField :
    1 ≤ a1 (asked 0#32 1#32 0#32) ∧ a1 (asked 0#32 1#32 0#32) ≤ 128 ∧
    a0 (asked 0#32 1#32 0#32) + a1 (asked 0#32 1#32 0#32) ≤ len (asked 0#32 1#32 0#32) .buf0 := by decide
theorem witness_IntegerReadsStayInRange :
    1 ≤ a1 (asked 0#32 13#32 0#32) ∧ a1 (asked 0#32 13#32 0#32) ≤ 128 ∧ (Endian.be = .be) ∧
    a0 (asked 0#32 13#32 0#32) + a1 (asked 0#32 13#32 0#32) ≤ len (asked 0#32 13#32 0#32) .buf0 := by decide
/-- Bytes 23 45 in one state, 45 23 in the other. -/
theorem witness_LittleEndianIsByteReversal :
    let s := issue 0#32 0#32 16#32 0#32 setupB
    let s' := issue 0#32 0#32 16#32 0#32 (withBytes .buf0 [0x45#8, 0x23#8] 0#3 16#32 2#32 blank)
    (1 ≤ a1 s ∧ a1 s ≤ 128 ∧ a1 s % 8 = 0 ∧ a1 s' = a1 s) ∧
    (a0 s + a1 s ≤ len s .buf0 ∧ a0 s' + a1 s' ≤ len s' .buf0) ∧
    ∀ k < a1 s / 8, fieldAt s .buf0 (a0 s + 8 * k) 8 = fieldAt s' .buf0 (a0 s' + 8 * (a1 s / 8 - 1 - k)) 8 := by
  decide +kernel
/-- The 12 bits of 2872. -/
theorem witness_StoredIntegerReadsBack :
    let s := issue 0#32 0#32 12#32 0#32 setupA
    1 ≤ a1 s ∧ a1 s ≤ 128 ∧ 2872 < 2 ^ a1 s ∧ a0 s + a1 s ≤ len s .buf0 ∧
    ∀ k < a1 s, bitAt s .buf0 (a0 s + k) = 2872 / 2 ^ (a1 s - 1 - k) % 2 := by decide
theorem witness_FmtBuildFillsTable :
    ¬ legal (withFormat 0x9707#16 blank).fmt[0] ∧ legal (withFormat 0x9607#16 blank).fmt[0] := by
  unfold legal; decide
theorem witness_NfDecodeReadsTable :
    let s := issue 0x21#32 13#32 0#32 0#32 (withTable 0x10A#16 setupF)
    let t := issue 0x21#32 12#32 0#32 0#32 (withTable 0x10A#16 setupF)
    isFmtValid setupF 0 = false ∧
    (isFmtValid s 0 = true ∧ len s .buf0 < a0 s + width s.fmt[0]) ∧
    (isFmtValid t 0 = true ∧ a0 t + width t.fmt[0] ≤ len t .buf0) := by decide
theorem witness_NfLookupReadsTable :
    let s := issue 0x22#32 16#32 0#32 0#32 (withTable 0x10A#16 blank)
    let t := issue 0x22#32 15#32 0#32 0#32 (withTable 0x10A#16 blank)
    isFmtValid blank 0 = false ∧
    (isFmtValid s 0 = true ∧ 2 ^ width s.fmt[0] ≤ a0 s) ∧ (isFmtValid t 0 = true ∧ a0 t < 2 ^ width t.fmt[0]) := by
  decide
/-- The zero code with sign 1 and the greatest code of descriptors without carve-outs. -/
theorem witness_NarrowDecodeIsExact :
    (legal 0x9607#16 ∧ 255 < 2 ^ width 0x9607#16 ∧ finiteCode 0x9607#16 255) ∧
    (legal 0x075C#16 ∧ 0x80 < 2 ^ width 0x075C#16 ∧ finiteCode 0x075C#16 0x80) := by
  unfold legal; decide
/-- One NaN code of each policy that has some, and the infinite codes of IEEE and P3109. -/
theorem witness_ClassTellsSpecialWords :
    (legal 0x075C#16 ∧ 0xFF < 2 ^ width 0x075C#16 ∧ nanCode 0x075C#16 0x7F ∧ nanCode 0x075C#16 0xFF) ∧
    (legal 0x0F95#16 ∧ 0xFF < 2 ^ width 0x0F95#16 ∧ nanCode 0x0F95#16 0xFF ∧ posInfCode 0x0F95#16 0x7C ∧
      negInfCode 0x0F95#16 0xFC) ∧
    (legal 0x10D5#16 ∧ 0xFF < 2 ^ width 0x10D5#16 ∧ nanCode 0x10D5#16 0x80 ∧ posInfCode 0x10D5#16 0x7F ∧
      negInfCode 0x10D5#16 0xFF) := by
  unfold legal
  refine ⟨?_, ?_, ?_⟩ <;> decide

/-- Haystack and needle over A5, with operands x, y; the needle has n bits. -/
def searching (x y n : Word) : State :=
  issue 0x30#32 x y 0#32 (withBytes .buf1 [0xA5#8] 0#3 n 1#32 (withBytes .buf0 [0xA5#8, 0xA5#8] 0#3 16#32 2#32 blank))

/-- The checks of a search: an empty needle, start above end, end above the haystack, and a range that passes. -/
theorem witness_search_checks :
    len (searching 0#32 0#32 0#32) .buf1 = 0 ∧
    (len (searching 1#32 0#32 8#32) .buf1 ≠ 0 ∧ a1 (searching 1#32 0#32 8#32) < a0 (searching 1#32 0#32 8#32)) ∧
    len (searching 0#32 17#32 8#32) .buf0 < a1 (searching 0#32 17#32 8#32) ∧
    (len (searching 16#32 16#32 8#32) .buf1 ≠ 0 ∧ a0 (searching 16#32 16#32 8#32) ≤ a1 (searching 16#32 16#32 8#32) ∧
      a1 (searching 16#32 16#32 8#32) ≤ len (searching 16#32 16#32 8#32) .buf0) := by decide
/-- A range shorter than the needle has no match (FIND, RFIND, FINDALL_FIRST). -/
theorem witness_search_finds_nothing (ba : Bool) :
    matchSet (searching 0#32 7#32 8#32) (a0 (searching 0#32 7#32 8#32)) (a1 (searching 0#32 7#32 8#32)) ba = ∅ := by
  ext p
  simp only [matchSet, Set.mem_ofPred_eq, Set.mem_empty_iff_false, iff_false, not_and]
  intro _ h
  exact absurd h (by
    have e : len (searching 0#32 7#32 8#32) .buf1 = 8 := by decide
    have e' : a1 (searching 0#32 7#32 8#32) = 7 := by decide
    omega)
/-- A match at 8, the only place it can be: least and greatest. -/
theorem witness_search_finds (ba : Bool) :
    IsLeast (matchSet (searching 8#32 16#32 8#32) (a0 (searching 8#32 16#32 8#32)) (a1 (searching 8#32 16#32 8#32)) ba) 8 ∧
    IsGreatest (matchSet (searching 8#32 16#32 8#32) (a0 (searching 8#32 16#32 8#32)) (a1 (searching 8#32 16#32 8#32)) ba)
      8 := by
  have e : len (searching 8#32 16#32 8#32) .buf1 = 8 := by decide
  have e0 : a0 (searching 8#32 16#32 8#32) = 8 := by decide
  have e1 : a1 (searching 8#32 16#32 8#32) = 16 := by decide
  have m : (8 : Nat) ∈ matchSet (searching 8#32 16#32 8#32) (a0 (searching 8#32 16#32 8#32))
      (a1 (searching 8#32 16#32 8#32)) ba := by
    refine ⟨by decide, by decide, fun _ => by decide, ?_⟩
    rw [e]; decide
  refine ⟨⟨m, fun q hq => ?_⟩, m, fun q hq => ?_⟩
  · have := hq.1; omega
  · have := hq.2.1; omega
/-- The iterator: inactive, at its end, and before a match. -/
theorem witness_FindallNextAdvancesIterator :
    let s := { searching 0#32 0#32 8#32 with faNext := 9#32, faEnd := 16#32, faActive := true }
    let t := { searching 0#32 0#32 8#32 with faNext := 8#32, faEnd := 16#32, faActive := true }
    (searching 0#32 0#32 8#32).faActive = false ∧
    (s.faActive = true ∧ matchSet s s.faNext.toNat s.faEnd.toNat s.faBa = ∅) ∧
    (t.faActive = true ∧ IsLeast (matchSet t t.faNext.toNat t.faEnd.toNat t.faBa) 8) := by
  intro s t
  have e : len s .buf1 = 8 := by decide
  have m : (8 : Nat) ∈ matchSet t t.faNext.toNat t.faEnd.toNat t.faBa := by
    refine ⟨by decide, by decide, fun _ => by decide, ?_⟩
    rw [show len t .buf1 = 8 by decide]; decide
  refine ⟨rfl, ⟨rfl, ?_⟩, rfl, m, fun q hq => hq.1⟩
  ext p
  simp only [matchSet, Set.mem_ofPred_eq, Set.mem_empty_iff_false, iff_false, not_and]
  intro h h'
  have h1 : (9 : Nat) ≤ p := h
  have h2 : p + len s .buf1 ≤ 16 := h'
  omega
theorem witness_FindallNext_illegal_word : (0x00000433#32).extractLsb' 0 8 = 0x33#8 ∧ 0x00000433#32 ≠ 0x33#32 := by decide
theorem witness_FindallEnumeratesEveryMatch :
    let s := searching 0#32 16#32 8#32
    s.params.wf = true ∧ bufferWf s.params s.buf0 ∧ len s .buf1 ≠ 0 ∧ a0 s ≤ a1 s ∧ a1 s ≤ len s .buf0 ∧ a1 s ≤ 16 := by
  decide

/-! #### Every command -/

/-- A next state of a command, for the statements about all of them: EXTRACT succeeds, and GET_BIT past the end errs. -/
theorem witness_ErrorsArePrecise :
    (∃ t, exec (.getBit .lsb0) (asked 13#32 0#32 0#32) = .next t ∧ t.err = true) ∧
    ∃ t, completionStep (issue 0x3#32 0#32 0#32 0#32 blank) = .next t ∧ t.err = true :=
  ⟨⟨_, rfl, rfl⟩, _, rfl, rfl⟩
theorem witness_CommandsKeepHostRegisters : ∃ t, exec (.extract .msb0 true) (asked 0#32 13#32 0#32) = .next t := ⟨_, rfl⟩
theorem witness_EachFamilyWritesOnlyItsState :
    (∃ t, exec (.extract .msb0 true) (asked 0#32 13#32 0#32) = .next t) ∧
    (∀ b, Instr.extract .msb0 true ≠ .zeros b) ∧ isConstruction (.extract .msb0 true) = false ∧
    isFinder (.extract .msb0 true) = false ∧ isBuild (.extract .msb0 true) = false ∧
    (∃ t, exec .nop (asked 0#32 0#32 0#32) = .next t) :=
  ⟨⟨_, rfl⟩, fun b => by cases b <;> decide, rfl, rfl, rfl, ⟨_, rfl⟩⟩
/-- Two states that differ in a storage bit before the first logical bit and in one after the last. -/
theorem witness_BitsOutsideBuffersAreInvisible :
    let s := { setupH with ram0 := [(0, 0x12#8), (1, 0x34#8), (2, 0x56#8)], ram1 := [(0, 0xA0#8)],
                           buf0 := ⟨4#3, 16#32, 3#32⟩, faActive := true, faEnd := 16#32 }
    let t := { s with ram0 := [(0, 0xF2#8), (1, 0x34#8), (2, 0x5F#8)], ram1 := [(0, 0xAF#8)] }
    sameLogicalBits s t ∧ iteratorWf s := by
  intro s t
  refine ⟨⟨rfl, fun b p hp => ?_⟩, by decide⟩
  cases b
  · have h : p < 16 := hp
    interval_cases p <;> decide
  · have h : p < 4 := hp
    interval_cases p <;> decide

/-! #### Host accesses -/

/-- BUSY = 0 and BUSY = 1: the two cases of CMD, FMTn and window writes. -/
theorem witness_busy_cases : blank.busy = false ∧ (issue 0#32 0#32 0#32 0#32 blank).busy = true := by decide
theorem witness_ReadOnlyWritesAreIgnored :
    (0 < 0x1000 ∧ 0 % 4 = 0 ∧ 0 ∉ [0x010, 0x014, 0x018, 0x01C, 0x020, 0x080, 0x084, 0x088, 0x08C]) ∧
    (0xFFC < 0x1000 ∧ 0xFFC % 4 = 0 ∧ 0xFFC ∉ [0x010, 0x014, 0x018, 0x01C, 0x020, 0x080, 0x084, 0x088, 0x08C]) := by decide
theorem witness_RegisterReadsShowFields :
    3 < 4 ∧ (0x024 < 0x1000 ∧ 0x024 % 4 = 0 ∧
      0x024 ∈ [0x024, 0x028, 0x02C, 0x04C, 0x05C, 0x06C, 0x070, 0x074, 0x078, 0x07C]) ∧
    (0x090 < 0x1000 ∧ 0x090 % 4 = 0 ∧ 0x08C < 0x090) ∧ (0xFFC < 0x1000 ∧ 0x08C < 0xFFC) := by decide
theorem witness_CtrlWriteResetsOrClearsOvr :
    (0x3#32).getLsbD 0 = true ∧ ((0x2#32).getLsbD 0 = false ∧ (0x2#32).getLsbD 1 = true) ∧
    ((0xFFFFFFFC#32).getLsbD 0 = false ∧ (0xFFFFFFFC#32).getLsbD 1 = false) := by decide
/-- The last word, half-word and byte of the 32. -/
theorem witness_WindowWriteStoresLittleEndianBytes :
    blank.params.wf = true ∧ (28 % bytes .word = 0 ∧ 28 + bytes .word ≤ blank.params.capBytes) ∧
    (30 % bytes .half = 0 ∧ 30 + bytes .half ≤ blank.params.capBytes) ∧
    (31 % bytes .byte = 0 ∧ 31 + bytes .byte ≤ blank.params.capBytes) := by decide
theorem witness_WindowReadReturnsStoredBytes :
    blank.params.wf = true ∧ (0 % bytes .word = 0 ∧ 0 + bytes .word ≤ blank.params.capBytes) ∧
    ¬ (blank.busy = true ∧ decode blank.pendCmd = .ok (.zeros .buf0)) ∧
    (issue 0x101#32 0#32 0#32 0#32 blank).busy = true ∧
    decode (issue 0x101#32 0#32 0#32 0#32 blank).pendCmd = .ok (.zeros .buf1) := by decide
/-- One offset at the edge of each clause: a half-word at a register, the hole, the two windows' last bytes, the top. -/
theorem witness_RejectedAccessChangesNothing :
    rejected blank.params 0xFFC (bytes .half) ∧ rejected blank.params 0x1000 (bytes .word) ∧
    rejected blank.params 0x100001E (bytes .word) ∧ rejected blank.params 0x2000020 (bytes .byte) ∧
    rejected blank.params 0x3FFFFFF (bytes .byte) := by
  unfold rejected
  refine ⟨.inl (by decide), .inr (.inl (by decide)), .inr (.inr (.inl (by decide))), .inr (.inr (.inr (.inl (by decide)))),
    .inr (.inr (.inr (.inr (by decide))))⟩
theorem witness_host_fault_stays : ∃ t, { blank with hostFault := true }.hostFault = true ∧
    step { blank with hostFault := true } = .next t := ⟨_, rfl, rfl⟩
/-- The bus addresses just below and just above an aperture at BASE = 2^26, and the last one inside. -/
theorem witness_OnlyAccessesOutsideApertureStop :
    let s := { blank with params := { capBytes := 32, nativeLe := true, base := 0x4000000 } }
    nextIsOutside (withAccess s (.read 0x3FFFFFF .byte) []) ∧ nextIsOutside (withAccess s (.write 0x8000000 .byte 0#32) []) ∧
    ¬ nextIsOutside (withAccess s (.read 0x7FFFFFF .byte) []) := by
  refine ⟨⟨_, _, _, .inl rfl, .inl (by decide)⟩, ⟨_, _, _, .inr ⟨_, rfl⟩, .inr (by decide)⟩, ?_⟩
  rintro ⟨addr, w, rest, h | ⟨v, h⟩, ha⟩
  · injection h with h
    injection h with h
    injection h with h
    subst h
    revert ha
    decide
  · injection h with h
    injection h with h
    cases h
theorem witness_HostReadsHaveNoSideEffects : ∃ t, step (withAccess setupB (.read 0x1000000 .byte) []) = .next t :=
  ⟨_, rfl⟩
theorem witness_PollingHostNeverSetsOvr : ∃ t, (withAccess blank (.write 0x014 .word 0x1#32) []).ovr = false ∧
    followsPolling (withAccess blank (.write 0x014 .word 0x1#32) []) = true ∧
    step (withAccess blank (.write 0x014 .word 0x1#32) []) = .next t := ⟨_, rfl, by decide, rfl⟩
theorem witness_OvrStaysUntilCleared :
    let s := withAccess { blank with ovr := true } (.write 0x010 .word 0x2#32) []
    ∃ t, s.ovr = true ∧ step s = .next t ∧ t.ovr = false := ⟨_, rfl, rfl, rfl⟩

/-! #### Invariants -/

/-- A state that meets every invariant, with a built slot, an active iterator and a ZEROS about to complete. -/
def inUse : State :=
  { withTable 0x10A#16 setupH with
    busy := true, pendCmd := 0x1#32, pendArg0 := 12#32, faNext := 9#32, faEnd := 32#32, faActive := true }

theorem witness_StepsKeepBufferInvariant : ∃ t, buffersWf inUse ∧ step inUse = .next t := ⟨_, by decide, rfl⟩
theorem witness_StepsKeepStorageCanonical : ∃ t, ramsWf inUse ∧ step inUse = .next t := ⟨_, by decide, rfl⟩
theorem witness_StepsKeepErrorFields : ∃ t, errorFieldsWf inUse ∧ step inUse = .next t := ⟨_, by decide, rfl⟩
theorem witness_StepsKeepTableAgreement : ∃ t, tablesWf inUse ∧ step inUse = .next t := ⟨_, by decide +kernel, rfl⟩
theorem witness_StepsKeepIteratorInvariant : ∃ t, iteratorWf inUse ∧ step inUse = .next t := ⟨_, by decide, rfl⟩
theorem witness_StepsKeepParameters : ∃ t, step inUse = .next t := ⟨_, rfl⟩
theorem witness_IdleLatchesAreInvisible : (withAccess setupB (.write 0x014 .word 0x8#32) []).busy = false := by decide
theorem witness_NoCommandStaysPending :
    let s := { blank with inputs := [.access (.write 0x014 .word 0x8#32), .engineTurn, .access (.read 0x3FFFFFF .byte)] }
    ∀ i ∈ s.inputs, inAperture s.params i = true := by decide

end Sys2Proof.Tests
end

section
/-! PROOFS. What a word access at a register offset does, said once (R64, R65, R70), and the statements about writes
to CMD, to CTRL and to what the host cannot write. -/

namespace Sys2Proof.Machine

open Sys2Proof.Rules

/-! ### From a bus access to the register it reaches -/

theorem apertureOffset_base_add (p : Params) {a : Nat} (ha : a < 0x4000000) :
    apertureOffset p (p.base + a) = some a := by
  have hin : p.base ≤ p.base + a ∧ p.base + a < p.base + 0x4000000 := by omega
  rw [apertureOffset, if_pos hin, Nat.add_sub_cancel_left]

theorem targetOf_reg (p : Params) {a : Nat} (ha : a < 0x1000) (h4 : a % 4 = 0) :
    targetOf p a .word = some (.reg (regAt a)) := by
  simp [targetOf, ha, h4]

/-- A host access that lies in the aperture takes the machine to what the block makes of it at its offset. -/
theorem step_read (s : State) {a : Nat} (w : Width) (rest : List Input) (ha : a < 0x4000000) :
    step (withAccess s (.read (s.params.base + a) w) rest) = .next (readAt a w { s with inputs := rest }) := by
  simp only [step, withAccess, inputStep, hostStep, apertureOffset_base_add s.params ha]

theorem step_write (s : State) {a : Nat} (w : Width) (v : Word) (rest : List Input) (ha : a < 0x4000000) :
    step (withAccess s (.write (s.params.base + a) w v) rest) = .next (writeAt a w v { s with inputs := rest }) := by
  simp only [step, withAccess, inputStep, hostStep, apertureOffset_base_add s.params ha]

/-! ### The equations of a register write (R32, R33, R245) -/

theorem ctrlWrite_of_softReset {v : Word} (h : v.getLsbD 0 = true) (s : State) : ctrlWrite v s = softReset s := by
  simp only [ctrlWrite, h, if_true]
  split <;> rfl

theorem ctrlWrite_of_clrOvr {v : Word} (h0 : v.getLsbD 0 = false) (h1 : v.getLsbD 1 = true) (s : State) :
    ctrlWrite v s = { s with ovr := false } := by
  simp only [ctrlWrite, h0, h1, Bool.false_eq_true, if_false, if_true]

theorem ctrlWrite_of_neither {v : Word} (h0 : v.getLsbD 0 = false) (h1 : v.getLsbD 1 = false) (s : State) :
    ctrlWrite v s = s := by
  simp only [ctrlWrite, h0, h1, Bool.false_eq_true, if_false]

theorem regWrite_cmd_of_idle {s : State} (h : s.busy = false) (v : Word) : regWrite .cmd v s = acceptCommand v s := by
  simp [regWrite, h]

theorem regWrite_cmd_of_busy {s : State} (h : s.busy = true) (v : Word) : regWrite .cmd v s = setOvr s := by
  simp [regWrite, h]

/-! ### Register accesses and the waiting inputs -/

theorem regRead_withInputs (s : State) (q : List Input) (r : Reg) : regRead { s with inputs := q } r = regRead s r := by
  cases r with
  | bufOffset b | bufBitLen b | bufNBytes b => cases b <;> rfl
  | _ => rfl

theorem ctrlWrite_withInputs (v : Word) (s : State) (q : List Input) :
    ctrlWrite v { s with inputs := q } = { ctrlWrite v s with inputs := q } := by
  unfold ctrlWrite
  cases v.getLsbD 0 <;> cases v.getLsbD 1 <;> rfl

theorem regWrite_withInputs (r : Reg) (v : Word) (s : State) (q : List Input) :
    regWrite r v { s with inputs := q } = { regWrite r v s with inputs := q } := by
  cases r with
  | ctrl => exact ctrlWrite_withInputs v s q
  | cmd | fmt n => simp only [regWrite]; split <;> rfl
  | _ => rfl

/-- A word read at a register offset answers the register's value (R64, R65, R72). -/
theorem reads_reg (s : State) {a : Nat} (ha : a < 0x1000) (h4 : a % 4 = 0) : reads s a (regRead s (regAt a)) := by
  intro rest
  rw [step_read s .word rest (by omega)]
  simp only [readAt, targetOf_reg _ ha h4, hostRead, regRead_withInputs]
  rfl

/-- A word write at a register offset is that register's write and no bus error (R64, R65). -/
theorem writes_reg (s : State) {a : Nat} (v : Word) (ha : a < 0x1000) (h4 : a % 4 = 0) :
    writes s a .word v (regWrite (regAt a) v s) := by
  intro rest
  refine ⟨.done, by decide, ?_⟩
  rw [step_write s .word v rest (by omega)]
  simp only [writeAt, targetOf_reg _ ha h4, hostWrite, regWrite_withInputs]
  rfl

/-! ### The registers a host can write (R43) -/

/-- The registers that take a host write; every other one, and every reserved offset, ignores it. -/
def isHostWritable : Reg → Bool
  | .ctrl | .cmd | .arg0 | .arg1 | .arg2 | .fmt _ => true
  | _ => false

theorem regWrite_of_not_isHostWritable {r : Reg} (h : isHostWritable r = false) (v : Word) (s : State) :
    regWrite r v s = s := by
  cases r with
  | ctrl | cmd | arg0 | arg1 | arg2 | fmt n => simp [isHostWritable] at h
  | _ => rfl

/-- The nine offsets of R70 that name a register a host can write. -/
theorem mem_of_isHostWritable_regAt {a : Nat} (h : isHostWritable (regAt a) = true) :
    a ∈ [0x010, 0x014, 0x018, 0x01C, 0x020, 0x080, 0x084, 0x088, 0x08C] := by
  unfold regAt at h
  split at h <;> simp [isHostWritable] at h ⊢

/-- Settles O37: the offset names no host-writable register, and the others ignore a write. -/
theorem readOnlyWritesAreIgnored : Obligations.ReadOnlyWritesAreIgnored := by
  intro s a v ha h4 hnot
  have hro : isHostWritable (regAt a) = false := Bool.eq_false_iff.mpr fun h => hnot (mem_of_isHostWritable_regAt h)
  have hw := writes_reg s v ha h4
  rwa [regWrite_of_not_isHostWritable hro] at hw

/-! ### CTRL (R32, R237) -/

theorem writes_ctrl (s : State) (v : Word) : writes s 0x010 .word v (ctrlWrite v s) :=
  writes_reg s v (by decide) (by decide)

/-- Settles O39, by the two bits of the value; the clear that follows a soft reset finds OVR = 0. -/
theorem ctrlWriteResetsOrClearsOvr : Obligations.CtrlWriteResetsOrClearsOvr := by
  intro s v
  have hw := writes_ctrl s v
  refine ⟨fun h0 => ?_, fun h0 h1 => ?_, fun h0 h1 => ?_, reads_reg s (by decide) (by decide)⟩
  · rw [ctrlWrite_of_softReset h0] at hw
    exact ⟨softReset s, hw, rfl⟩
  · rwa [ctrlWrite_of_clrOvr h0 h1] at hw
  · rwa [ctrlWrite_of_neither h0 h1] at hw

/-! ### CMD (R33, R245) -/

theorem writes_cmd (s : State) (v : Word) : writes s 0x014 .word v (regWrite .cmd v s) :=
  writes_reg s v (by decide) (by decide)

/-- Settles O34, by BUSY. -/
theorem cmdWriteIsAcceptedOnlyWhenIdle : Obligations.CmdWriteIsAcceptedOnlyWhenIdle := by
  refine ⟨fun s v => ⟨fun idle => ?_, fun busy => ?_, reads_reg s (by decide) (by decide)⟩, rfl⟩
  · have hw := writes_cmd s v
    rwa [regWrite_cmd_of_idle idle] at hw
  · have hw := writes_cmd s v
    rwa [regWrite_cmd_of_busy busy] at hw

end Sys2Proof.Machine
end

section
/-! PROOFS. The commands of 40_buffer_bitfield.md: the model's meanings said in the spec's own formulas, and the
statements about NOP, ZEROS, LOAD, GET_BIT, GET_BYTE_RANGE, EXTRACT and the reversed numbering. -/

namespace Sys2Proof.Machine

open Sys2Proof.Rules

/-! ### The model's operations in the spec's formulas (R10, R93, R111, R214, R215) -/

theorem raiseErr_eq_failed (e : ErrorCode) (s : State) : raiseErr e s = failed (errorNumber e) s := rfl

theorem completeNoResult_eq_succeeded (s : State) : completeNoResult s = succeeded s := rfl

theorem complete_eq_succeededWith (r : Result) (s : State) : complete r s = succeededWith r s := rfl

theorem operand0_eq_a0 (s : State) : operand0 s = a0 s := rfl

theorem operand1_eq_a1 (s : State) : operand1 s = a1 s := rfl

theorem operand2_eq_a2 (s : State) : operand2 s = a2 s := rfl

theorem ofNat_a0 (s : State) : BitVec.ofNat 32 (a0 s) = s.pendArg0 := by
  rw [a0, BitVec.ofNat_toNat, BitVec.setWidth_eq]

theorem ofNat_a1 (s : State) : BitVec.ofNat 32 (a1 s) = s.pendArg1 := by
  rw [a1, BitVec.ofNat_toNat, BitVec.setWidth_eq]

theorem offsetOf_eq_off (s : State) (b : BufSel) : offsetOf s b = off s b := by cases b <;> rfl

theorem bitLenOf_eq_len (s : State) (b : BufSel) : bitLenOf s b = len s b := by cases b <;> rfl

theorem len_lt (s : State) (b : BufSel) : len s b < 2 ^ 32 := by
  cases b <;> exact BitVec.isLt _

theorem off_lt (s : State) (b : BufSel) : off s b < 8 := by
  cases b <;> exact BitVec.isLt _

theorem toNat_bit_eq_bitAt (s : State) (b : BufSel) (p : Nat) : (bit s b p).toNat = bitAt s b p := by
  rw [bit, bitAt, offsetOf_eq_off, BitVec.getLsbD, Nat.toNat_testBit]

/-- The recursion over the last bit of a field gives the sum of R10. -/
theorem field_eq_fieldAt (s : State) (b : BufSel) (p n : Nat) : field s b p n = fieldAt s b p n := by
  induction n with
  | zero => rfl
  | succ n ih =>
    have shifted : ∀ k ∈ Finset.range n,
        bitAt s b (p + k) * 2 ^ (n + 1 - 1 - k) = 2 * (bitAt s b (p + k) * 2 ^ (n - 1 - k)) := by
      intro k hk
      have hkn := Finset.mem_range.mp hk
      have exponent : n + 1 - 1 - k = n - 1 - k + 1 := by omega
      rw [exponent, pow_succ]
      ring
    rw [field, ih, toNat_bit_eq_bitAt, fieldAt, fieldAt, Finset.sum_range_succ, Finset.sum_congr rfl shifted,
      Finset.mul_sum]
    simp

theorem nativeIndex_eq (l : Numbering) (n i : Nat) : nativeIndex l n i = if l = .lsb0 then n - i - 1 else i := by
  cases l <;> rfl

theorem nativeField_eq_fieldStart (l : Numbering) (s : State) (a n : Nat) :
    nativeField l (len s .buf0) a n = fieldStart l s a n := by
  cases l <;> rfl

/-- Two 32-bit numbers in RES1 and RES0 (R35). -/
theorem packRes_low (hi lo : Nat) (hhi : hi < 2 ^ 32) (hlo : lo < 2 ^ 32) :
    packRes 0#32 0#32 (BitVec.ofNat 32 hi) (BitVec.ofNat 32 lo) = BitVec.ofNat 128 (hi * 2 ^ 32 + lo) := by
  apply BitVec.eq_of_toNat_eq
  have hor : (hi <<< 32 ||| lo) = hi * 2 ^ 32 + lo := by rw [← Nat.shiftLeft_add_eq_or_of_lt hlo, Nat.shiftLeft_eq]
  simp only [packRes, BitVec.toNat_append, BitVec.toNat_ofNat, Nat.mod_eq_of_lt hhi, Nat.mod_eq_of_lt hlo, Nat.zero_mod,
    Nat.zero_shiftLeft, Nat.zero_or, hor]
  exact (Nat.mod_eq_of_lt (by omega)).symm

/-! ### NOP (R112) -/

/-- A word is 0 when OP, every other field and the reserved bits are 0: no bit lies outside them (R86). -/
theorem word_eq_zero_of_fields {w : Word} (hop : opField w = 0#8) (hres : reservedField w = 0#16)
    (hfields : ∀ f ∈ allFields, fieldValue w f = 0) : w = 0#32 := by
  simp only [allFields, List.forall_mem_cons, fieldValue, bField, lField, baField, pField, endField, slotField,
    BitVec.extractLsb'_toNat, Nat.shiftRight_eq_div_pow] at hfields
  obtain ⟨hb, hl, hba, hp, hend, hslot, -⟩ := hfields
  have hop := congrArg BitVec.toNat hop
  have hres := congrArg BitVec.toNat hres
  simp only [opField, reservedField, BitVec.extractLsb'_toNat, Nat.shiftRight_eq_div_pow, BitVec.toNat_ofNat] at hop hres
  bv_omega

/-- NOP takes no field, so its only word is 0 (R88, R112). -/
theorem eq_zero_of_decode_nopOp {w : Word} {i : Instr} (hop : opField w = 0#8) (h : decode w = .ok i) : w = 0#32 := by
  have hnop : opcodeOf (opField w) = some .nop := by rw [hop]; rfl
  simp only [decode, hnop] at h
  split at h
  · contradiction
  split at h
  · contradiction
  next hres huntaken =>
    refine word_eq_zero_of_fields hop (not_not.mp hres) ?_
    simpa [hasUntakenField, fieldsTaken] using huntaken

/-- Settles O6: a word of OP 0 decodes only when it is 0. -/
theorem nopOnlyDoesBookkeeping : Obligations.NopOnlyDoesBookkeeping := by
  refine ⟨rfl, fun w hop hne => ?_, fun s => rfl⟩
  cases hd : decode w with
  | error e => exact ⟨e, rfl⟩
  | ok i => exact absurd (eq_zero_of_decode_nopOp hop hd) hne

/-! ### ZEROS (R113) -/

theorem exec_zeros_of_gt (b : BufSel) {s : State} (h : 8 * s.params.capBytes < a0 s) :
    exec (.zeros b) s = .next (failed 1#4 s) := by
  rw [exec, execZeros, operand0_eq_a0, if_pos h, raiseErr_eq_failed, errorNumber]

theorem exec_zeros_of_le (b : BufSel) {s : State} (h : a0 s ≤ 8 * s.params.capBytes) :
    exec (.zeros b) s = .next (succeeded (constructZeros b (a0 s) s)) := by
  rw [exec, execZeros, operand0_eq_a0, if_neg (Nat.not_lt.mpr h), completeNoResult_eq_succeeded]

/-- The registers and the RAM are all that ZEROS sets beside ACTIVE and the bookkeeping. -/
theorem succeeded_constructZeros (b : BufSel) (s : State) :
    succeeded (constructZeros b (a0 s) s) =
      withRam (withBuffer { succeeded s with faActive := false } b ⟨0#3, s.pendArg0, BitVec.ofNat 32 ((a0 s + 7) / 8)⟩) b
        (memZero (ramOf s b) ((a0 s + 7) / 8)) := by
  rw [constructZeros, ofNat_a0]
  cases b <;> rfl

/-- Zero-fill of one buffer's RAM, seen through `Stor` (R10). -/
theorem stor_setRam_memZero (s : State) (b c : BufSel) (n i : Nat) :
    stor (setRam s b (memZero (ramOf s b) n)) c i = if c = b ∧ i < n then 0#8 else stor s c i := by
  by_cases hc : c = b
  · subst hc
    by_cases hi : i < n <;> simp [stor, memGet_memZero, hi]
  · simp [stor, hc]

theorem stor_succeeded_constructZeros (b c : BufSel) (n i : Nat) (s : State) :
    stor (succeeded (constructZeros b n s)) c i = if c = b ∧ i < ceilDiv8 n then 0#8 else stor s c i := by
  rw [← stor_setRam_memZero]
  apply stor_congr
  · cases b <;> cases c <;> rfl
  · cases b <;> rfl

/-- Settles O7; the RAM the statement asks for is the zero-filled one. -/
theorem zerosConstructsZeroBuffer : Obligations.ZerosConstructsZeroBuffer :=
  ⟨⟨rfl, rfl⟩, fun b s => ⟨exec_zeros_of_gt b, fun h =>
    ⟨_, _, exec_zeros_of_le b h, succeeded_constructZeros b s, fun c i => stor_succeeded_constructZeros b c (a0 s) i s⟩⟩⟩

/-! ### LOAD (R114) -/

theorem exec_load_of_bad (b : BufSel) {s : State}
    (h : s.params.capBytes < a2 s ∨ 8 ≤ a0 s ∨ 8 * a2 s < a0 s + a1 s) :
    exec (.load b) s = .next (failed 1#4 s) := by
  rw [exec, execLoad, operand0_eq_a0, operand1_eq_a1, operand2_eq_a2]
  by_cases hcap : s.params.capBytes < a2 s
  · rw [if_pos hcap]
    rfl
  by_cases hoff : 8 ≤ a0 s
  · rw [if_neg hcap, if_pos hoff]
    rfl
  · rw [if_neg hcap, if_neg hoff, if_pos (by omega)]
    rfl

theorem loadedBuffer_operands (s : State) :
    loadedBuffer (a0 s) (a1 s) = if a1 s = 0 then ⟨0#3, 0#32, 0#32⟩
      else ⟨BitVec.ofNat 3 (a0 s), s.pendArg1, BitVec.ofNat 32 ((a0 s + a1 s + 7) / 8)⟩ := by
  rw [loadedBuffer, ofNat_a1, Buffer.empty, ceilDiv8]

theorem exec_load_of_fits (b : BufSel) {s : State} (hcap : a2 s ≤ s.params.capBytes) (hoff : a0 s < 8)
    (hlen : a0 s + a1 s ≤ 8 * a2 s) :
    exec (.load b) s =
      .next (withBuffer { succeeded s with faActive := false } b (loadedBuffer (a0 s) (a1 s))) := by
  rw [exec, execLoad, operand0_eq_a0, operand1_eq_a1, operand2_eq_a2, if_neg (Nat.not_lt.mpr hcap),
    if_neg (Nat.not_le.mpr hoff), if_neg (Nat.not_lt.mpr hlen)]
  cases b <;> rfl

/-- Settles O8, from what LOAD does when a check fails and when all pass. -/
theorem loadDeclaresBuffer : Obligations.LoadDeclaresBuffer := by
  refine ⟨⟨rfl, rfl⟩, fun b s => ⟨exec_load_of_bad b, fun hcap hoff hlen => ?_⟩⟩
  rw [exec_load_of_fits b hcap hoff hlen, loadedBuffer_operands]

/-! ### GET_BIT (R115) -/

theorem exec_getBit_of_past (l : Numbering) {s : State} (h : len s .buf0 ≤ a0 s) :
    exec (.getBit l) s = .next (failed 5#4 s) := by
  rw [exec, execGetBit, bitLenOf_eq_len, operand0_eq_a0, if_pos h, raiseErr_eq_failed, errorNumber]

theorem exec_getBit_of_inside (l : Numbering) {s : State} (h : a0 s < len s .buf0) :
    exec (.getBit l) s = .next (succeededWith
      (BitVec.ofNat 128 (bitAt s .buf0 (if l = .lsb0 then len s .buf0 - a0 s - 1 else a0 s))) s) := by
  rw [exec, execGetBit, bitLenOf_eq_len, operand0_eq_a0, if_neg (Nat.not_le.mpr h), toNat_bit_eq_bitAt, nativeIndex_eq,
    zext128, complete_eq_succeededWith]

/-- Settles O9, by the check of the position. -/
theorem getBitReadsOneBit : Obligations.GetBitReadsOneBit :=
  ⟨⟨rfl, rfl⟩, fun l _ => ⟨exec_getBit_of_past l, exec_getBit_of_inside l⟩⟩

/-! ### Reversed numbering (R119) -/

theorem trIndex_trIndex {n i : Nat} (h : i < n) : trIndex n (trIndex n i) = i := by
  simp only [trIndex]
  omega

theorem trRange_trRange {n a e : Nat} (hae : a ≤ e) (hen : e ≤ n) :
    trRange n (trRange n a e).1 (trRange n a e).2 = (a, e) := by
  simp only [trRange, Prod.mk.injEq]
  omega

/-- GET_BIT of an operand inside the buffer, the operand as a number. -/
theorem exec_getBit_pendArg0 (l : Numbering) (s : State) {i : Nat} (h : i < len s .buf0) :
    exec (.getBit l) { s with pendArg0 := BitVec.ofNat 32 i } =
      .next (succeededWith (BitVec.ofNat 128 (bitAt s .buf0 (if l = .lsb0 then len s .buf0 - i - 1 else i)))
        { s with pendArg0 := BitVec.ofNat 32 i }) := by
  have harg : a0 { s with pendArg0 := BitVec.ofNat 32 i } = i := Nat.mod_eq_of_lt (h.trans (len_lt s .buf0))
  have hget := exec_getBit_of_inside l (s := { s with pendArg0 := BitVec.ofNat 32 i })
  rw [harg] at hget
  exact hget h

/-- Settles O12: both commands give the bit at native position i. -/
theorem reversedNumberingIsSymmetric : Obligations.ReversedNumberingIsSymmetric := by
  refine ⟨fun n i => trIndex_trIndex, fun n a e => trRange_trRange, fun s i hi => ?_⟩
  have mirrored : len s .buf0 - (len s .buf0 - 1 - i) - 1 = i := by omega
  refine ⟨BitVec.ofNat 128 (bitAt s .buf0 i), exec_getBit_pendArg0 .msb0 s hi, ?_⟩
  have hget := exec_getBit_pendArg0 .lsb0 s (i := len s .buf0 - 1 - i) (by omega)
  rwa [if_pos rfl, mirrored] at hget

/-! ### GET_BYTE_RANGE (R116) -/

theorem nativeRange_eq (l : Numbering) (n a e : Nat) :
    nativeRange l n a e = (if l = .lsb0 then n - e else a, if l = .lsb0 then n - a else e) := by
  cases l <;> rfl

/-- A native range of a range operand inside the buffer lies inside the buffer. -/
theorem nativeRange_le (l : Numbering) {n a e : Nat} (hae : a ≤ e) (hen : e ≤ n) :
    (nativeRange l n a e).1 ≤ (nativeRange l n a e).2 ∧ (nativeRange l n a e).2 ≤ n := by
  cases l <;> simp only [nativeRange, trRange] <;> omega

/-- The enclosing bytes of a range that ends inside the buffer end inside the buffer's bytes. -/
theorem byteSpan_end_le (s : State) {ns ne : Nat} (hns : ns ≤ ne) (hne : ne ≤ len s .buf0) :
    (byteSpan s ns ne).1 + (byteSpan s ns ne).2 ≤ ceilDiv8 (off s .buf0 + len s .buf0) := by
  simp only [byteSpan, ceilDiv8, offsetOf_eq_off]
  split <;> omega

theorem exec_getByteRange_of_bad (l : Numbering) {s : State} (h : a1 s < a0 s ∨ len s .buf0 < a1 s) :
    exec (.getByteRange l) s = .next (failed 5#4 s) := by
  rw [exec, execGetByteRange, bitLenOf_eq_len, operand0_eq_a0, operand1_eq_a1, if_pos h, raiseErr_eq_failed, errorNumber]

/-- GET_BYTE_RANGE of a range inside the buffer: neither number of the span wraps in its result register. -/
theorem exec_getByteRange_of_inside (l : Numbering) {s : State} (hae : a0 s ≤ a1 s) (hen : a1 s ≤ len s .buf0)
    {span : Nat × Nat}
    (hspan : span = byteSpan s (nativeRange l (len s .buf0) (a0 s) (a1 s)).1
      (nativeRange l (len s .buf0) (a0 s) (a1 s)).2) :
    exec (.getByteRange l) s = .next (succeededWith (BitVec.ofNat 128 (span.2 * 2 ^ 32 + span.1)) s) := by
  obtain ⟨hns, hne⟩ := nativeRange_le l hae hen
  have hend := byteSpan_end_le s hns hne
  rw [← hspan] at hend
  have hbound : ceilDiv8 (off s .buf0 + len s .buf0) < 2 ^ 32 := by
    have := len_lt s .buf0
    have := off_lt s .buf0
    simp only [ceilDiv8]
    omega
  have hchecks : ¬ (a1 s < a0 s ∨ len s .buf0 < a1 s) := by omega
  rw [exec, execGetByteRange, bitLenOf_eq_len, operand0_eq_a0, operand1_eq_a1, if_neg hchecks]
  dsimp only
  rw [← hspan, packRes_low _ _ (by omega) (by omega), complete_eq_succeededWith]

/-- Settles O10; the bound in the buffer's bytes is R37 at the end of the span. -/
theorem getByteRangeGivesSpan : Obligations.GetByteRangeGivesSpan := by
  refine ⟨⟨rfl, rfl⟩, fun l s => ⟨exec_getByteRange_of_bad l, fun hae hen => ?_⟩⟩
  obtain ⟨hns, hne⟩ := nativeRange_le l hae hen
  have hend := byteSpan_end_le s hns hne
  have hexec := exec_getByteRange_of_inside l hae hen rfl
  simp only [nativeRange_eq, byteSpan, offsetOf_eq_off, ceilDiv8] at hend hexec
  exact ⟨_, _, _, _, rfl, rfl, rfl, rfl, hexec, fun ⟨hbytes, _⟩ => hend.trans_eq hbytes.symm⟩

/-! ### EXTRACT (R117) -/

theorem padField_eq (pad : Bool) (n v : Nat) :
    padField pad n v = v * if pad then 2 ^ (8 * ((n + 7) / 8) - n) else 1 := by
  cases pad <;> simp [padField, ceilDiv8]

theorem exec_extract_of_long (l : Numbering) (pad : Bool) {s : State} (h : 128 < a1 s) :
    exec (.extract l pad) s = .next (failed 2#4 s) := by
  rw [exec, execExtract, operand1_eq_a1, if_pos h, raiseErr_eq_failed, errorNumber]

theorem exec_extract_of_past (l : Numbering) (pad : Bool) {s : State} (short : a1 s ≤ 128)
    (h : len s .buf0 < a0 s + a1 s) : exec (.extract l pad) s = .next (failed 5#4 s) := by
  rw [exec, execExtract, bitLenOf_eq_len, operand0_eq_a0, operand1_eq_a1, if_neg (Nat.not_lt.mpr short), if_pos h,
    raiseErr_eq_failed, errorNumber]

theorem exec_extract_of_inside (l : Numbering) (pad : Bool) {s : State} (short : a1 s ≤ 128)
    (h : a0 s + a1 s ≤ len s .buf0) :
    exec (.extract l pad) s =
      .next (succeededWith (zext128 (padField pad (a1 s) (fieldAt s .buf0 (fieldStart l s (a0 s) (a1 s)) (a1 s)))) s) := by
  rw [exec, execExtract, bitLenOf_eq_len, operand0_eq_a0, operand1_eq_a1, if_neg (Nat.not_lt.mpr short),
    if_neg (Nat.not_lt.mpr h), nativeField_eq_fieldStart]
  dsimp only
  rw [field_eq_fieldAt, complete_eq_succeededWith]

/-- Settles O11, by the two checks in their order. -/
theorem extractPadsFieldWithZeros : Obligations.ExtractPadsFieldWithZeros := by
  refine ⟨⟨rfl, rfl, rfl, rfl⟩, fun l pad s =>
    ⟨exec_extract_of_long l pad, exec_extract_of_past l pad, fun short inside => ?_⟩⟩
  rw [exec_extract_of_inside l pad short inside, padField_eq, zext128]

end Sys2Proof.Machine
end

section
/-! PROOFS. The commands of 41_integer.md: what `int_field` gives in each of its cases, the reads as its completions, and
the statements about the unsigned and signed reads, byte reversal and storing an integer. -/

namespace Sys2Proof.Machine

open Sys2Proof.Rules

/-! ### Fields as numbers (R10, R141) -/

theorem fieldAt_succ (s : State) (b : BufSel) (p n : Nat) :
    fieldAt s b p (n + 1) = 2 * fieldAt s b p n + bitAt s b (p + n) := by
  rw [← field_eq_fieldAt, field, field_eq_fieldAt, toNat_bit_eq_bitAt]

/-- Of two adjacent fields read as one, the first is the more significant. -/
theorem fieldAt_add (s : State) (b : BufSel) (p m n : Nat) :
    fieldAt s b p (m + n) = fieldAt s b p m * 2 ^ n + fieldAt s b (p + m) n := by
  induction n with
  | zero => simp [fieldAt]
  | succ n ih =>
    rw [← add_assoc, fieldAt_succ, fieldAt_succ, ih, pow_succ, add_assoc p m n]
    ring

/-- A field of whole bytes, summed from its last byte to its first. -/
theorem fieldAt_eq_sum_bytes (s : State) (b : BufSel) (p m : Nat) :
    fieldAt s b p (8 * m) = ∑ k ∈ Finset.range m, fieldAt s b (p + 8 * (m - 1 - k)) 8 * 2 ^ (8 * k) := by
  induction m generalizing p with
  | zero => rfl
  | succ m ih =>
    have laterBytes : ∀ k ∈ Finset.range m,
        fieldAt s b (p + 8 + 8 * (m - 1 - k)) 8 * 2 ^ (8 * k) =
          fieldAt s b (p + 8 * (m + 1 - 1 - k)) 8 * 2 ^ (8 * k) := by
      intro k hk
      have hkm := Finset.mem_range.mp hk
      have place : p + 8 + 8 * (m - 1 - k) = p + 8 * (m + 1 - 1 - k) := by omega
      rw [place]
    rw [Nat.mul_succ, add_comm, fieldAt_add, ih, Finset.sum_congr rfl laterBytes, Finset.sum_range_succ, add_comm]
    simp

/-- A field that holds the bits of v, most significant first, is v. -/
theorem fieldAt_of_bits (s : State) (b : BufSel) (p : Nat) {n v : Nat} (hv : v < 2 ^ n)
    (hbits : ∀ k < n, bitAt s b (p + k) = v / 2 ^ (n - 1 - k) % 2) : fieldAt s b p n = v := by
  induction n generalizing v with
  | zero => exact (Nat.lt_one_iff.mp hv).symm
  | succ n ih =>
    have leading : fieldAt s b p n = v / 2 := by
      refine ih (by omega) fun k hk => ?_
      have exponent : n + 1 - 1 - k = (n - 1 - k) + 1 := by omega
      rw [hbits k (by omega), exponent, pow_succ', Nat.div_div_eq_div_mul]
    have last := hbits n (by omega)
    rw [Nat.add_sub_cancel, Nat.sub_self, pow_zero, Nat.div_one] at last
    rw [fieldAt_succ, leading, last, Nat.div_add_mod]

/-- The recursion over the last byte of a little-endian field gives the sum of R141. -/
theorem leField_eq_sum (s : State) (p m : Nat) :
    leField s p m = ∑ k ∈ Finset.range m, fieldAt s .buf0 (p + 8 * k) 8 * 2 ^ (8 * k) := by
  induction m with
  | zero => rfl
  | succ m ih => rw [leField, ih, field_eq_fieldAt, Finset.sum_range_succ]

theorem isLittle_iff (e : Endian) (p : Params) :
    isLittle e p = true ↔ e = .le ∨ (e = .ne ∧ p.nativeLe = true) := by
  cases e <;> simp [isLittle]

theorem needsWholeBytes_iff (e : Endian) : needsWholeBytes e = true ↔ e ≠ .be := by
  cases e <;> simp [needsWholeBytes]

theorem intFieldValue_eq_fieldIn (e : Endian) (l : Numbering) (s : State) : intFieldValue e l s = fieldIn e l s := by
  simp only [intFieldValue, fieldIn, isLittle_iff, bitLenOf_eq_len, operand0_eq_a0, operand1_eq_a1,
    nativeField_eq_fieldStart, leField_eq_sum, leFieldAt, field_eq_fieldAt]

theorem signedValue_eq_signed (u n : Nat) : signedValue u n = signed u n := rfl

/-- R12: the signed value of an n-bit pattern is an n-bit two's-complement number. -/
theorem signed_bounds {u n : Nat} (hn : 1 ≤ n) (hu : u < 2 ^ n) :
    -2 ^ (n - 1) ≤ signed u n ∧ signed u n < 2 ^ (n - 1) := by
  have double : 2 ^ n = 2 * 2 ^ (n - 1) := by rw [← pow_succ', Nat.sub_add_cancel hn]
  simp only [signed]
  zify at hu double ⊢
  split <;> omega

/-- A signed value of at most 128 bits survives sign extension to 128 bits (R9). -/
theorem toInt_ofInt_signed {u n : Nat} (hn : 1 ≤ n) (short : n ≤ 128) (hu : u < 2 ^ n) :
    (BitVec.ofInt 128 (signed u n)).toInt = signed u n := by
  obtain ⟨lower, upper⟩ := signed_bounds hn hu
  have widen : (2 : Int) ^ (n - 1) ≤ 2 ^ (128 - 1) := pow_le_pow_right₀ (by decide) (by omega)
  exact BitVec.toInt_ofInt_eq_self (by decide) (by omega) (by omega)

/-! ### The checks of `int_field` (R140, R212) -/

section
variable {e : Endian} {l : Numbering} {s : State}

theorem intField_of_badLength (h : a1 s = 0 ∨ 128 < a1 s) : intField e l s = .error .interpret := by
  rw [intField, operand1_eq_a1, if_pos h]

theorem intField_of_unaligned (pos : 1 ≤ a1 s) (short : a1 s ≤ 128) (he : e ≠ .be) (h : a1 s % 8 ≠ 0) :
    intField e l s = .error .byteAlign := by
  rw [intField, operand1_eq_a1, if_neg (by omega), if_pos ⟨(needsWholeBytes_iff e).mpr he, h⟩]

theorem not_unaligned_of_aligned {n : Nat} (aligned : e = .be ∨ n % 8 = 0) :
    ¬ (needsWholeBytes e = true ∧ n % 8 ≠ 0) := by
  rw [needsWholeBytes_iff]
  tauto

theorem intField_of_past (pos : 1 ≤ a1 s) (short : a1 s ≤ 128) (aligned : e = .be ∨ a1 s % 8 = 0)
    (h : len s .buf0 < a0 s + a1 s) : intField e l s = .error .index := by
  rw [intField, operand0_eq_a0, operand1_eq_a1, bitLenOf_eq_len, if_neg (by omega),
    if_neg (not_unaligned_of_aligned aligned), if_pos h]

theorem intField_of_inside (pos : 1 ≤ a1 s) (short : a1 s ≤ 128) (aligned : e = .be ∨ a1 s % 8 = 0)
    (h : a0 s + a1 s ≤ len s .buf0) : intField e l s = .ok (fieldIn e l s) := by
  rw [← intFieldValue_eq_fieldIn, intField, intFieldValue, operand0_eq_a0, operand1_eq_a1, bitLenOf_eq_len,
    if_neg (by omega), if_neg (not_unaligned_of_aligned aligned), if_neg (by omega)]

/-! ### The reads as completions of `int_field` (R142 to R147) -/

theorem exec_readUintInstr (e : Endian) (l : Numbering) (s : State) :
    exec (readUintInstr e l) s = readUint e l s := by
  cases e <;> rfl

theorem exec_readIntInstr (e : Endian) (l : Numbering) (s : State) : exec (readIntInstr e l) s = readInt e l s := by
  cases e <;> rfl

theorem exec_readUint_of_error {x : ErrorCode} (h : intField e l s = .error x) :
    exec (readUintInstr e l) s = .next (failed (errorNumber x) s) := by
  rw [exec_readUintInstr, readUint, h, ← raiseErr_eq_failed]

theorem exec_readUint_of_ok {u : Nat} (h : intField e l s = .ok u) :
    exec (readUintInstr e l) s = .next (succeededWith (BitVec.ofNat 128 u) s) := by
  rw [exec_readUintInstr, readUint, h, ← zext128, ← complete_eq_succeededWith]

theorem exec_readInt_of_error {x : ErrorCode} (h : intField e l s = .error x) :
    exec (readIntInstr e l) s = .next (failed (errorNumber x) s) := by
  rw [exec_readIntInstr, readInt, h, ← raiseErr_eq_failed]

theorem exec_readInt_of_ok {u : Nat} (h : intField e l s = .ok u) :
    exec (readIntInstr e l) s = .next (succeededWith (BitVec.ofInt 128 (signed u (a1 s))) s) := by
  rw [exec_readIntInstr, readInt, h, ← sext128, ← complete_eq_succeededWith, ← signedValue_eq_signed, operand1_eq_a1]

end

/-- Settles O13: each check of `int_field`, in its order, and the field when all pass. -/
theorem unsignedReadsReturnField : Obligations.UnsignedReadsReturnField :=
  ⟨⟨rfl, rfl, rfl, rfl, rfl, rfl⟩, fun _ _ _ =>
    ⟨fun bad => exec_readUint_of_error (intField_of_badLength bad),
     fun pos short he unaligned => exec_readUint_of_error (intField_of_unaligned pos short he unaligned),
     fun pos short aligned past => exec_readUint_of_error (intField_of_past pos short aligned past),
     fun pos short aligned inside => exec_readUint_of_ok (intField_of_inside pos short aligned inside)⟩⟩

/-- Settles O14: the checks are those of the unsigned reads, the result is the field's signed value. -/
theorem signedReadsSignExtendField : Obligations.SignedReadsSignExtendField :=
  ⟨⟨rfl, rfl, rfl, rfl, rfl, rfl⟩, fun _ _ _ =>
    ⟨fun bad => exec_readInt_of_error (intField_of_badLength bad),
     fun pos short he unaligned => exec_readInt_of_error (intField_of_unaligned pos short he unaligned),
     fun pos short aligned past => exec_readInt_of_error (intField_of_past pos short aligned past),
     fun pos short aligned inside => exec_readInt_of_ok (intField_of_inside pos short aligned inside)⟩⟩

/-! ### Byte reversal (R149) -/

theorem fieldIn_be_msb0 (s : State) : fieldIn .be .msb0 s = fieldAt s .buf0 (a0 s) (a1 s) := by
  simp [fieldIn, fieldStart]

theorem fieldIn_le_msb0 (s : State) : fieldIn .le .msb0 s = leFieldAt s (a0 s) (a1 s) := by
  simp [fieldIn, fieldStart]

/-- A little-endian field is the big-endian field of the same bytes in the opposite order. -/
theorem leFieldAt_eq_fieldAt_of_reversed {s s' : State} {p p' n : Nat} (whole : n % 8 = 0)
    (reversed : ∀ k < n / 8, fieldAt s .buf0 (p + 8 * k) 8 = fieldAt s' .buf0 (p' + 8 * (n / 8 - 1 - k)) 8) :
    leFieldAt s p n = fieldAt s' .buf0 p' n := by
  have wholeBytes : n = 8 * (n / 8) := by omega
  calc leFieldAt s p n
      = ∑ k ∈ Finset.range (n / 8), fieldAt s' .buf0 (p' + 8 * (n / 8 - 1 - k)) 8 * 2 ^ (8 * k) :=
        Finset.sum_congr rfl fun k hk => by rw [reversed k (Finset.mem_range.mp hk)]
    _ = fieldAt s' .buf0 p' (8 * (n / 8)) := (fieldAt_eq_sum_bytes s' .buf0 p' (n / 8)).symm
    _ = fieldAt s' .buf0 p' n := by rw [← wholeBytes]

/-- Settles O16: both reads of either state complete with the same field. -/
theorem littleEndianIsByteReversal : Obligations.LittleEndianIsByteReversal := by
  intro s s' pos short whole sameLength inside inside' reversed
  have sameField : fieldIn .be .msb0 s' = fieldIn .le .msb0 s := by
    rw [fieldIn_be_msb0, fieldIn_le_msb0, sameLength, leFieldAt_eq_fieldAt_of_reversed whole reversed]
  have little : intField .le .msb0 s = .ok (fieldIn .le .msb0 s) :=
    intField_of_inside pos short (.inr whole) inside
  have big : intField .be .msb0 s' = .ok (fieldIn .le .msb0 s) :=
    sameField ▸ intField_of_inside (by omega) (by omega) (.inl rfl) inside'
  have bigSigned := exec_readInt_of_ok big
  rw [sameLength] at bigSigned
  exact ⟨_, _, _, _, exec_readUint_of_ok little, exec_readUint_of_ok big, rfl, exec_readInt_of_ok little, bigSigned, rfl⟩

/-! ### Storing and reading back (R150) -/

/-- Settles O17: the field is the stored value, and 128 bits hold it unsigned and signed. -/
theorem storedIntegerReadsBack : Obligations.StoredIntegerReadsBack := by
  intro s v pos short hv inside stored
  have value : fieldIn .be .msb0 s = v := by rw [fieldIn_be_msb0, fieldAt_of_bits s .buf0 (a0 s) hv stored]
  have read : intField .be .msb0 s = .ok v := value ▸ intField_of_inside pos short (.inl rfl) inside
  have fits : v < 2 ^ 128 := hv.trans_le (Nat.pow_le_pow_right (by decide) short)
  exact ⟨_, _, exec_readUint_of_ok read, Nat.mod_eq_of_lt fits, exec_readInt_of_ok read,
    toInt_ofInt_signed pos short hv⟩

end Sys2Proof.Machine
end

section
/-! PROOFS. The commands of 42_narrow_float.md: the classes of R165 read off the carve-out sets of R162, the result a
table read returns, and the statements about FMT_BUILD, NF_DECODE and NF_LOOKUP. -/

namespace Sys2Proof.Machine

open Sys2Proof.Rules

/-! ### Descriptors and codes in the spec's formulas (R160, R161) -/

theorem codeWidth_eq_width (f : BitVec 16) : codeWidth f = width f := rfl

theorem fmtLegal_iff_legal (f : BitVec 16) : fmtLegal f = true ↔ legal f := fmtLegal_iff f

theorem codeSign_eq_signOf (f : BitVec 16) (c : Nat) : codeSign f c = signOf f c := rfl

theorem codeExp_eq_expOf (f : BitVec 16) (c : Nat) : codeExp f c = expOf f c := rfl

theorem codeMant_eq_mantOf (f : BitVec 16) (c : Nat) : codeMant f c = mantOf f c := rfl

theorem two_pow_fmtE_sub_one (f : BitVec 16) : 2 ^ fmtE f - 1 = emax f := rfl

theorem two_pow_fmtM_sub_one (f : BitVec 16) : 2 ^ fmtM f - 1 = mmax f := rfl

/-! ### The carve-outs and the class (R162, R165) -/

/-- The four carve-out policies NONE, MAXNAN, IEEE and P3109 (R40). -/
theorem policy_cases (f : BitVec 16) :
    f.extractLsb' 6 2 = 0#2 ∨ f.extractLsb' 6 2 = 1#2 ∨ f.extractLsb' 6 2 = 2#2 ∨ f.extractLsb' 6 2 = 3#2 := by
  generalize f.extractLsb' 6 2 = sp
  revert sp
  decide

theorem isNanCode_iff (f : BitVec 16) (c : Nat) : isNanCode f c = true ↔ nanCode f c := by
  simp only [isNanCode, fmtSp, codeExp_eq_expOf, codeMant_eq_mantOf, codeWidth_eq_width,
    two_pow_fmtE_sub_one, two_pow_fmtM_sub_one]
  rcases policy_cases f with noSpecials | maxNan | ieee | p3109
  · simp [nanCode, noSpecials]
  · simp [nanCode, maxNan]
  · simp [nanCode, ieee]
  · simp [nanCode, p3109]

theorem isPosInfCode_iff (f : BitVec 16) (c : Nat) : isPosInfCode f c = true ↔ posInfCode f c := by
  simp only [isPosInfCode, fmtSp, codeSign_eq_signOf, codeExp_eq_expOf, codeMant_eq_mantOf, codeWidth_eq_width,
    two_pow_fmtE_sub_one]
  rcases policy_cases f with noSpecials | maxNan | ieee | p3109
  · simp [posInfCode, noSpecials]
  · simp [posInfCode, maxNan]
  · simp [posInfCode, ieee, and_assoc]
  · simp [posInfCode, p3109]

theorem isNegInfCode_iff (f : BitVec 16) (c : Nat) : isNegInfCode f c = true ↔ negInfCode f c := by
  simp only [isNegInfCode, fmtSp, codeSign_eq_signOf, codeExp_eq_expOf, codeMant_eq_mantOf, codeWidth_eq_width,
    two_pow_fmtE_sub_one]
  rcases policy_cases f with noSpecials | maxNan | ieee | p3109
  · simp [negInfCode, noSpecials]
  · simp [negInfCode, maxNan]
  · simp [negInfCode, ieee, and_assoc]
  · simp [negInfCode, p3109]

theorem codeClass_eq_classOf (f : BitVec 16) (c : Nat) : codeClass f c = classOf f c := by
  simp only [codeClass, classOf, Bool.or_eq_true, isNanCode_iff, isPosInfCode_iff, isNegInfCode_iff]

/-! ### The result of a table read (R35, R167, R168) -/

theorem shiftLeft_or_eq_add {x y : Nat} (hy : y < 2 ^ 32) : (x <<< 32 ||| y) = x * 2 ^ 32 + y := by
  rw [← Nat.shiftLeft_add_eq_or_of_lt hy, Nat.shiftLeft_eq]

/-- Three 32-bit numbers in RES2, RES1 and RES0 (R35). -/
theorem packRes_three {hi mid : Nat} (hhi : hi < 2 ^ 32) (hmid : mid < 2 ^ 32) (lo : Word) :
    packRes 0#32 (BitVec.ofNat 32 hi) (BitVec.ofNat 32 mid) lo =
      BitVec.ofNat 128 (hi * 2 ^ 64 + mid * 2 ^ 32 + lo.toNat) := by
  apply BitVec.eq_of_toNat_eq
  simp only [packRes, BitVec.toNat_append, BitVec.toNat_ofNat, Nat.mod_eq_of_lt hhi, Nat.mod_eq_of_lt hmid,
    shiftLeft_or_eq_add hhi, shiftLeft_or_eq_add hmid, shiftLeft_or_eq_add lo.isLt]
  omega

theorem narrowResult_eq_tableResult (n : Slot) (s : State) {c : Nat} (hc : c < 2 ^ 32) :
    narrowResult n c s = tableResult s n c := by
  have hclass : codeClass s.fmt[n] c < 2 ^ 32 := (codeClass_lt s.fmt[n] c).trans (by decide)
  rw [narrowResult, packRes_three hclass hc, codeClass_eq_classOf, tableResult]

/-- A W-bit field fits RES1, for W is at most 15. -/
theorem fieldAt_width_lt (s : State) (b : BufSel) (p : Nat) (f : BitVec 16) : fieldAt s b p (width f) < 2 ^ 32 :=
  calc fieldAt s b p (width f)
      < 2 ^ width f := field_eq_fieldAt s b p (width f) ▸ field_lt s b p (width f)
    _ ≤ 2 ^ 32 := Nat.pow_le_pow_right (by decide) ((codeWidth_le f).trans (by decide))

/-! ### FMT_BUILD (R166) -/

theorem exec_fmtBuild_of_illegal {n : Slot} {s : State} (h : ¬ legal s.fmt[n]) :
    exec (.fmtBuild n) s = .next (failed 2#4 s) := by
  rw [exec, execFmtBuild, if_neg (mt (fmtLegal_iff_legal _).mp h), raiseErr_eq_failed, errorNumber]

theorem exec_fmtBuild_of_legal {n : Slot} {s : State} (h : legal s.fmt[n]) :
    exec (.fmtBuild n) s = .next (succeeded (buildSlot n s)) := by
  rw [exec, execFmtBuild, if_pos ((fmtLegal_iff_legal _).mpr h), completeNoResult_eq_succeeded]

theorem isFmtValid_buildSlot (n m : Slot) (s : State) :
    isFmtValid (buildSlot n s) m = (decide (m = n) || isFmtValid s m) := by
  rw [buildSlot, isFmtValid_setFmtValid]
  by_cases h : m = n
  · simp [h]
  · simp [h, isFmtValid]

theorem isFmtValid_succeeded (s : State) (n : Slot) : isFmtValid (succeeded s) n = isFmtValid s n := rfl

theorem lutWord_succeeded (s : State) (n : Slot) (c : Nat) : lutWord (succeeded s) n c = lutWord s n c := rfl

/-- Settles O18: the bookkeeping touches neither FMT_VALID nor a table, so both are as `buildSlot` left them. -/
theorem fmtBuildFillsTable : Obligations.FmtBuildFillsTable := by
  refine ⟨⟨rfl, rfl, rfl, rfl⟩, fun n s => ⟨exec_fmtBuild_of_illegal, fun h =>
    ⟨_, exec_fmtBuild_of_legal h, rfl, fun m => ?_, fun m c => ?_⟩⟩⟩
  · rw [isFmtValid_succeeded, isFmtValid_buildSlot]
  · rw [lutWord_succeeded, lutWord_buildSlot, codeWidth_eq_width]

/-! ### NF_DECODE (R167) -/

section
variable (l : Numbering) {n : Slot} {s : State}

theorem exec_nfDecode_of_unbuilt (h : isFmtValid s n = false) : exec (.nfDecode l n) s = .next (failed 2#4 s) := by
  rw [exec, execNfDecode, if_neg (ne_true_of_eq_false h), raiseErr_eq_failed, errorNumber]

theorem exec_nfDecode_of_past (built : isFmtValid s n = true) (h : len s .buf0 < a0 s + width s.fmt[n]) :
    exec (.nfDecode l n) s = .next (failed 5#4 s) := by
  rw [exec, execNfDecode, bitLenOf_eq_len, operand0_eq_a0, codeWidth_eq_width, if_pos built, if_pos h,
    raiseErr_eq_failed, errorNumber]

theorem exec_nfDecode_of_inside (built : isFmtValid s n = true) (h : a0 s + width s.fmt[n] ≤ len s .buf0) :
    exec (.nfDecode l n) s = .next (succeededWith
      (tableResult s n (fieldAt s .buf0 (fieldStart l s (a0 s) (width s.fmt[n])) (width s.fmt[n]))) s) := by
  rw [exec, execNfDecode, bitLenOf_eq_len, operand0_eq_a0, codeWidth_eq_width, if_pos built,
    if_neg (Nat.not_lt.mpr h), nativeField_eq_fieldStart]
  dsimp only
  rw [field_eq_fieldAt, narrowResult_eq_tableResult n s (fieldAt_width_lt ..), complete_eq_succeededWith]

end

/-- Settles O19, by the two checks in their order. -/
theorem nfDecodeReadsTable : Obligations.NfDecodeReadsTable :=
  ⟨⟨rfl, rfl⟩, fun l _ _ =>
    ⟨exec_nfDecode_of_unbuilt l, exec_nfDecode_of_past l, exec_nfDecode_of_inside l⟩⟩

/-! ### NF_LOOKUP (R168) -/

section
variable {n : Slot} {s : State}

theorem exec_nfLookup_of_unbuilt (h : isFmtValid s n = false) : exec (.nfLookup n) s = .next (failed 2#4 s) := by
  rw [exec, execNfLookup, if_neg (ne_true_of_eq_false h), raiseErr_eq_failed, errorNumber]

theorem exec_nfLookup_of_outside (built : isFmtValid s n = true) (h : 2 ^ width s.fmt[n] ≤ a0 s) :
    exec (.nfLookup n) s = .next (failed 5#4 s) := by
  rw [exec, execNfLookup, operand0_eq_a0, codeWidth_eq_width, if_pos built, if_pos h, raiseErr_eq_failed, errorNumber]

theorem exec_nfLookup_of_inside (built : isFmtValid s n = true) (h : a0 s < 2 ^ width s.fmt[n]) :
    exec (.nfLookup n) s = .next (succeededWith (tableResult s n (a0 s)) s) := by
  have fits : a0 s < 2 ^ 32 := s.pendArg0.isLt
  rw [exec, execNfLookup, operand0_eq_a0, codeWidth_eq_width, if_pos built, if_neg (Nat.not_le.mpr h),
    narrowResult_eq_tableResult n s fits, complete_eq_succeededWith]

end

/-- Settles O20, by the two checks in their order. -/
theorem nfLookupReadsTable : Obligations.NfLookupReadsTable :=
  ⟨rfl, fun _ _ => ⟨exec_nfLookup_of_unbuilt, exec_nfLookup_of_outside, exec_nfLookup_of_inside⟩⟩

end Sys2Proof.Machine
end

section
/-! PROOFS. The commands of 43_finder.md: the match list as the match set of R190, its ends as the set's least and
greatest element, the checks of R191 by their outcome, and the statements about FIND, RFIND, FINDALL_FIRST and
FINDALL_NEXT. -/

namespace Sys2Proof.Machine

open Sys2Proof.Rules

/-! ### Commands that take no field (R88, R94) -/

/-- Outside OP a word has the six fields and the reserved bits, and no other bit (R86). -/
theorem word_eq_opField_of_fields {w : Word} (hres : reservedField w = 0#16)
    (hfields : ∀ f ∈ allFields, fieldValue w f = 0) : w = (opField w).setWidth 32 := by
  simp only [allFields, List.forall_mem_cons, fieldValue, bField, lField, baField, pField, endField, slotField,
    BitVec.extractLsb'_toNat, Nat.shiftRight_eq_div_pow] at hfields
  obtain ⟨hb, hl, hba, hp, hend, hslot, -⟩ := hfields
  have hres := congrArg BitVec.toNat hres
  simp only [reservedField, BitVec.extractLsb'_toNat, Nat.shiftRight_eq_div_pow, BitVec.toNat_ofNat] at hres
  apply BitVec.eq_of_toNat_eq
  simp only [opField, BitVec.toNat_setWidth, BitVec.extractLsb'_toNat, Nat.shiftRight_eq_div_pow]
  omega

/-- A command that takes no field has one word only, its OP value; `eq_zero_of_decode_nopOp` is this for OP 0. -/
theorem eq_opField_of_decode {w : Word} {op : Opcode} {i : Instr} (hop : opcodeOf (opField w) = some op)
    (fieldless : fieldsTaken op = []) (h : decode w = .ok i) : w = (opField w).setWidth 32 := by
  simp only [decode, hop] at h
  split at h
  · contradiction
  split at h
  · contradiction
  next hres huntaken =>
    refine word_eq_opField_of_fields (not_not.mp hres) ?_
    simpa [hasUntakenField, fieldless] using huntaken

/-! ### The match list and the match set (R190) -/

theorem bit_eq_iff_bitAt_eq (s : State) (b c : BufSel) (p q : Nat) :
    bit s b p = bit s c q ↔ bitAt s b p = bitAt s c q := by
  rw [← toNat_bit_eq_bitAt, ← toNat_bit_eq_bitAt]
  exact (Function.LeftInverse.injective Bool.ofNat_toNat).eq_iff.symm

theorem mem_matchList_iff_mem_matchSet (s : State) (st en : Nat) (ba : Bool) (p : Nat) :
    p ∈ matchList s st en ba ↔ p ∈ matchSet s st en ba := by
  simp only [mem_matchList, matchSet, Set.mem_ofPred_eq, bitLenOf_eq_len, bit_eq_iff_bitAt_eq]

/-- The first element of a list in r order is the member that no member precedes. -/
theorem head?_eq_some_of_first {r : Nat → Nat → Prop} {l : List Nat} {p : Nat} (ordered : l.Pairwise r) (hp : p ∈ l)
    (first : ∀ q ∈ l, ¬ r q p) : l.head? = some p := by
  cases l with
  | nil => cases hp
  | cons x xs =>
    rcases List.mem_cons.mp hp with rfl | later
    · rfl
    · exact absurd (List.rel_of_pairwise_cons ordered later) (first x List.mem_cons_self)

section
variable {s : State} {st en : Nat} {ba : Bool} {p : Nat}

theorem matchList_eq_nil_of_empty (h : matchSet s st en ba = ∅) : matchList s st en ba = [] := by
  refine List.eq_nil_iff_forall_not_mem.mpr fun p hp => ?_
  rw [mem_matchList_iff_mem_matchSet, h] at hp
  exact hp

theorem head?_matchList_of_isLeast (h : IsLeast (matchSet s st en ba) p) : (matchList s st en ba).head? = some p := by
  obtain ⟨hp, least⟩ := h
  refine head?_eq_some_of_first (matchList_pairwise s st en ba) ((mem_matchList_iff_mem_matchSet ..).mpr hp) fun q hq => ?_
  exact Nat.not_lt.mpr (least ((mem_matchList_iff_mem_matchSet ..).mp hq))

theorem getLast?_matchList_of_isGreatest (h : IsGreatest (matchSet s st en ba) p) :
    (matchList s st en ba).getLast? = some p := by
  obtain ⟨hp, greatest⟩ := h
  have falling : (matchList s st en ba).reverse.Pairwise (· > ·) :=
    List.pairwise_reverse.mpr (matchList_pairwise s st en ba)
  rw [List.getLast?_eq_head?_reverse]
  refine head?_eq_some_of_first falling (List.mem_reverse.mpr ((mem_matchList_iff_mem_matchSet ..).mpr hp)) fun q hq => ?_
  exact Nat.not_lt.mpr (greatest ((mem_matchList_iff_mem_matchSet ..).mp (List.mem_reverse.mp hq)))

end

/-! ### The end of a search and the iterator in the spec's formulas (R192, R194) -/

theorem completeSearch_none (s : State) :
    completeSearch none s = succeededWith nothing { s with found := false } := rfl

theorem completeSearch_some (p : Nat) (s : State) :
    completeSearch (some p) s = succeededWith (BitVec.ofNat 128 p) { s with found := true } := rfl

theorem advanceFa_none (en : Nat) (ba : Bool) (s : State) :
    advanceFa none en ba s = { s with faNext := BitVec.ofNat 32 en, faActive := false } := rfl

theorem advanceFa_some (p en : Nat) (ba : Bool) (s : State) :
    advanceFa (some p) en ba s = { s with faNext := BitVec.ofNat 32 (p + stepPast ba), faActive := true } := rfl

/-! ### FIND, RFIND and FINDALL_FIRST by the outcome of the checks (R191) -/

section
variable {i : Instr} {s : State}

theorem exec_search_of_error {x : ErrorCode} (search : isCheckedSearch i = true)
    (h : searchError s (operand0 s) (operand1 s) = some x) : exec i s = .next (raiseErr x s) := by
  cases i <;> simp only [isCheckedSearch, Bool.false_eq_true] at search
  case find => rw [exec, execFind, h]
  case rfind => rw [exec, execRfind, h]
  case findallFirst => rw [exec, execFindallFirst, h]

theorem exec_search_of_emptyNeedle (search : isCheckedSearch i = true) (h : len s .buf1 = 0) :
    exec i s = .next (failed 7#4 s) := by
  have error : searchError s (operand0 s) (operand1 s) = some .value := by
    rw [searchError, bitLenOf_eq_len, if_pos h]
  rw [exec_search_of_error search error, raiseErr_eq_failed, errorNumber]

theorem exec_search_of_badRange (search : isCheckedSearch i = true) (needle : len s .buf1 ≠ 0)
    (h : a1 s < a0 s ∨ len s .buf0 < a1 s) : exec i s = .next (failed 5#4 s) := by
  have error : searchError s (operand0 s) (operand1 s) = some .index := by
    rw [searchError, bitLenOf_eq_len, bitLenOf_eq_len, operand0_eq_a0, operand1_eq_a1, if_neg needle, if_pos h]
  rw [exec_search_of_error search error, raiseErr_eq_failed, errorNumber]

theorem exec_search_of_inside (search : isCheckedSearch i = true) (needle : len s .buf1 ≠ 0) (hae : a0 s ≤ a1 s)
    (hen : a1 s ≤ len s .buf0) : exec i s = .next (searched i s) := by
  have passed : searchError s (operand0 s) (operand1 s) = none := by
    rw [searchError, bitLenOf_eq_len, bitLenOf_eq_len, operand0_eq_a0, operand1_eq_a1, if_neg needle, if_neg (by omega)]
  cases i <;> simp only [isCheckedSearch, Bool.false_eq_true] at search
  case find => rw [exec, execFind, passed, searched]
  case rfind => rw [exec, execRfind, passed, searched]
  case findallFirst => rw [exec, execFindallFirst, passed, searched]

end

/-! ### What a search that passes the checks gives (R192 to R194) -/

section
variable {ba : Bool} {s : State} {p : Nat}

theorem searched_find_of_empty (h : matchSet s (a0 s) (a1 s) ba = ∅) :
    searched (.find ba) s = succeededWith nothing { s with found := false } := by
  rw [searched, operand0_eq_a0, operand1_eq_a1, matchList_eq_nil_of_empty h, List.head?_nil, completeSearch_none]

theorem searched_find_of_isLeast (h : IsLeast (matchSet s (a0 s) (a1 s) ba) p) :
    searched (.find ba) s = succeededWith (BitVec.ofNat 128 p) { s with found := true } := by
  rw [searched, operand0_eq_a0, operand1_eq_a1, head?_matchList_of_isLeast h, completeSearch_some]

theorem searched_rfind_of_empty (h : matchSet s (a0 s) (a1 s) ba = ∅) :
    searched (.rfind ba) s = succeededWith nothing { s with found := false } := by
  rw [searched, operand0_eq_a0, operand1_eq_a1, matchList_eq_nil_of_empty h, List.getLast?_nil, completeSearch_none]

theorem searched_rfind_of_isGreatest (h : IsGreatest (matchSet s (a0 s) (a1 s) ba) p) :
    searched (.rfind ba) s = succeededWith (BitVec.ofNat 128 p) { s with found := true } := by
  rw [searched, operand0_eq_a0, operand1_eq_a1, getLast?_matchList_of_isGreatest h, completeSearch_some]

theorem searched_findallFirst_of_empty (h : matchSet s (a0 s) (a1 s) ba = ∅) :
    searched (.findallFirst ba) s = succeededWith nothing
      { s with faNext := s.pendArg1, faEnd := s.pendArg1, faBa := ba, faActive := false, found := false } := by
  rw [searched, operand0_eq_a0, operand1_eq_a1, matchList_eq_nil_of_empty h, List.head?_nil, completeSearch_none,
    advanceFa_none, ofNat_a1]

theorem searched_findallFirst_of_isLeast (h : IsLeast (matchSet s (a0 s) (a1 s) ba) p) :
    searched (.findallFirst ba) s = succeededWith (BitVec.ofNat 128 p)
      { s with faNext := BitVec.ofNat 32 (p + stepPast ba), faEnd := s.pendArg1, faBa := ba, faActive := true,
               found := true } := by
  rw [searched, operand0_eq_a0, operand1_eq_a1, head?_matchList_of_isLeast h, completeSearch_some, advanceFa_some,
    ofNat_a1]

end

/-- Settles O23, by the checks in their order and the least element of the match set. -/
theorem findReturnsLeastMatch : Obligations.FindReturnsLeastMatch := by
  refine ⟨⟨rfl, rfl⟩, fun ba s =>
    ⟨exec_search_of_emptyNeedle rfl, exec_search_of_badRange rfl, fun needle hae hen => ?_⟩⟩
  rw [exec_search_of_inside rfl needle hae hen]
  exact ⟨fun h => congrArg _ (searched_find_of_empty h), fun p h => congrArg _ (searched_find_of_isLeast h)⟩

/-- Settles O24, by the checks in their order and the greatest element of the match set. -/
theorem rfindReturnsGreatestMatch : Obligations.RfindReturnsGreatestMatch := by
  refine ⟨⟨rfl, rfl⟩, fun ba s =>
    ⟨exec_search_of_emptyNeedle rfl, exec_search_of_badRange rfl, fun needle hae hen => ?_⟩⟩
  rw [exec_search_of_inside rfl needle hae hen]
  exact ⟨fun h => congrArg _ (searched_rfind_of_empty h), fun p h => congrArg _ (searched_rfind_of_isGreatest h)⟩

/-- Settles O25, by the checks in their order and where the iterator starts. -/
theorem findallFirstStartsIterator : Obligations.FindallFirstStartsIterator := by
  refine ⟨⟨rfl, rfl⟩, fun ba s =>
    ⟨exec_search_of_emptyNeedle rfl, exec_search_of_badRange rfl, fun needle hae hen => ?_⟩⟩
  rw [exec_search_of_inside rfl needle hae hen]
  exact ⟨fun h => congrArg _ (searched_findallFirst_of_empty h),
    fun p h => congrArg _ (searched_findallFirst_of_isLeast h)⟩

/-! ### FINDALL_NEXT (R195) -/

section
variable {s : State}

theorem exec_findallNext_of_inactive (inactive : s.faActive = false) :
    exec .findallNext s = .next (succeededWith nothing { s with found := false }) := by
  rw [exec, execFindallNext, if_neg (ne_true_of_eq_false inactive), completeSearch_none]

theorem exec_findallNext_of_empty (active : s.faActive = true)
    (h : matchSet s s.faNext.toNat s.faEnd.toNat s.faBa = ∅) :
    exec .findallNext s = .next (succeededWith nothing
      { s with faNext := s.faEnd, faActive := false, found := false }) := by
  rw [exec, execFindallNext, if_pos active, matchList_eq_nil_of_empty h]
  dsimp only [List.head?_nil]
  rw [completeSearch_none, advanceFa_none, BitVec.ofNat_toNat, BitVec.setWidth_eq]

theorem exec_findallNext_of_isLeast {p : Nat} (active : s.faActive = true)
    (h : IsLeast (matchSet s s.faNext.toNat s.faEnd.toNat s.faBa) p) :
    exec .findallNext s = .next (succeededWith (BitVec.ofNat 128 p)
      { s with faNext := BitVec.ofNat 32 (p + stepPast s.faBa), found := true }) := by
  rw [exec, execFindallNext, if_pos active, head?_matchList_of_isLeast h]
  dsimp only
  rw [completeSearch_some, advanceFa_some, ← active]

end

/-- Settles O26, by the state of the iterator; a word of FINDALL_NEXT decodes only when it is its OP value. -/
theorem findallNextAdvancesIterator : Obligations.FindallNextAdvancesIterator := by
  refine ⟨rfl, fun w hop hne => ?_, fun s =>
    ⟨exec_findallNext_of_inactive, exec_findallNext_of_empty, fun active _ => exec_findallNext_of_isLeast active⟩⟩
  cases hd : decode w with
  | error e => exact ⟨e, rfl⟩
  | ok i =>
    have op : opcodeOf (opField w) = some .findallNext := by rw [opField, hop]; rfl
    have value : w = (opField w).setWidth 32 := eq_opField_of_decode op rfl hd
    rw [opField, hop] at value
    exact absurd value hne

end Sys2Proof.Machine
end

section
/-! PROOFS. The statement of 60_exceptions.md: a command's completion has two forms, the error completion of the state it
was accepted in and the success bookkeeping, and only the first leaves ERR = 1. -/

namespace Sys2Proof.Machine

open Sys2Proof.Rules

/-! ### The two forms of a completion (R213 to R215) -/

/-- A search ends in success, whatever it found (R192). -/
theorem completeSearch_eq_completeNoResult (p : Option Nat) (s : State) :
    completeSearch p s = completeNoResult { s with res := p.elim notFound zext128, found := p.isSome } :=
  completeSearch_eq p s

theorem searched_eq_completeNoResult {i : Instr} (search : isCheckedSearch i = true) (s : State) :
    ∃ u, searched i s = completeNoResult u := by
  cases i <;> simp only [isCheckedSearch, Bool.false_eq_true] at search
  case find | rfind | findallFirst => exact ⟨_, completeSearch_eq_completeNoResult ..⟩

/-- Every command ends in an error that touches nothing else, or in success. -/
theorem exec_raisesErr_or_completes (i : Instr) (s : State) :
    (∃ x, exec i s = .next (raiseErr x s)) ∨ ∃ u, exec i s = .next (completeNoResult u) := by
  rcases exec_cases i s with ⟨x, _, error⟩ | ⟨_, nop⟩ | ⟨_, _, _, zeros⟩ | ⟨_, _, _, _, _, load⟩ | ⟨_, _, reader⟩ |
    ⟨_, _, _, build⟩ | ⟨search, _, checked⟩ | ⟨_, _, inactive⟩ | ⟨_, _, active⟩
  · exact .inl ⟨x, error⟩
  · exact .inr ⟨_, nop⟩
  · exact .inr ⟨_, zeros⟩
  · exact .inr ⟨_, load⟩
  · exact .inr ⟨_, reader⟩
  · exact .inr ⟨_, build⟩
  · obtain ⟨u, success⟩ := searched_eq_completeNoResult search s
    exact .inr ⟨u, checked.trans (congrArg _ success)⟩
  · exact .inr ⟨_, inactive.trans (congrArg _ (completeSearch_eq_completeNoResult ..))⟩
  · exact .inr ⟨_, active.trans (congrArg _ (completeSearch_eq_completeNoResult ..))⟩

/-- R94 adds no third form: a word that does not decode ends in the error completion ILLEGAL. -/
theorem completionStep_raisesErr_or_completes (s : State) :
    (∃ x, completionStep s = .next (raiseErr x s)) ∨ ∃ u, completionStep s = .next (completeNoResult u) := by
  rcases completionStep_cases s with ⟨_, _, illegal⟩ | ⟨i, _, decoded⟩
  · exact .inl ⟨.illegal, illegal⟩
  · rw [decoded]
    exact exec_raisesErr_or_completes i s

/-! ### Precise errors (R213) -/

/-- Of the two forms, ERR = 1 leaves only the error completion, whose code is the one in STATUS. -/
theorem eq_failed_of_err {o : Host.Outcome State Fault Refusal} {s t : State}
    (forms : (∃ x, o = .next (raiseErr x s)) ∨ ∃ u, o = .next (completeNoResult u)) (next : o = .next t)
    (err : t.err = true) : t = failed t.errCode s := by
  subst next
  rcases forms with ⟨x, error⟩ | ⟨u, success⟩
  · obtain rfl : t = raiseErr x s := Host.Outcome.next.inj error
    rw [raiseErr_errCode, raiseErr_eq_failed]
  · obtain rfl : t = completeNoResult u := Host.Outcome.next.inj success
    rw [completeNoResult_err] at err
    contradiction

/-- Settles O29, for a command and for any pending word, from the two forms of a completion. -/
theorem errorsArePrecise : Obligations.ErrorsArePrecise :=
  ⟨fun i s _ => eq_failed_of_err (exec_raisesErr_or_completes i s),
    fun s _ => eq_failed_of_err (completionStep_raisesErr_or_completes s)⟩

end Sys2Proof.Machine
end

section
/-! PROOFS. The host writes that BUSY drops: what an FMTn write and a storage-window write do while the block is idle and
while a command is pending, and the two statements about them. -/

namespace Sys2Proof.Machine

open Sys2Proof.Rules

/-! ### FMTn (R40, R246) -/

theorem regWrite_fmt_of_idle {s : State} (h : s.busy = false) (n : Slot) (v : Word) :
    regWrite (.fmt n) v s = fmtWrite n v s := by
  simp [regWrite, h]

theorem regWrite_fmt_of_busy {s : State} (h : s.busy = true) (n : Slot) (v : Word) :
    regWrite (.fmt n) v s = setOvr s := by
  simp [regWrite, h]

theorem regAt_fmt (n : Slot) : regAt (0x080 + 4 * n.val) = .fmt n := by
  fin_cases n <;> rfl

theorem writes_fmt (s : State) (n : Slot) (v : Word) : writes s (0x080 + 4 * n.val) .word v (regWrite (.fmt n) v s) := by
  have below : 0x080 + 4 * n.val < 0x1000 := by omega
  have aligned : (0x080 + 4 * n.val) % 4 = 0 := by omega
  have hw := writes_reg s v below aligned
  rwa [regAt_fmt] at hw

theorem fmtWrite_fmt (n m : Slot) (v : Word) (s : State) :
    (fmtWrite n v s).fmt[m] = if m = n then v.extractLsb' 0 16 else s.fmt[m] := by
  have low : v.setWidth 16 = v.extractLsb' 0 16 := BitVec.setWidth_eq_extractLsb' (by decide)
  simp only [fmtWrite, setFmtValid_fmt, Fin.getElem_fin, Vector.getElem_set, Fin.val_inj, low, eq_comm (a := n)]

theorem isFmtValid_fmtWrite (n m : Slot) (v : Word) (s : State) :
    isFmtValid (fmtWrite n v s) m = (decide (m ≠ n) && isFmtValid s m) := by
  rw [fmtWrite, isFmtValid_setFmtValid]
  by_cases h : m = n
  · simp [h]
  · simp [h, isFmtValid]

/-- Settles O36, by BUSY; the state the accepted write leaves is `fmtWrite`'s, which touches no table. -/
theorem fmtWriteInvalidatesSlot : Obligations.FmtWriteInvalidatesSlot := by
  intro s n v
  have hw := writes_fmt s n v
  refine ⟨fun busy => ?_, fun idle => ?_⟩
  · rwa [regWrite_fmt_of_busy busy] at hw
  · rw [regWrite_fmt_of_idle idle] at hw
    exact ⟨fmtWrite n v s, hw, rfl, fun m => fmtWrite_fmt n m v s, fun m => isFmtValid_fmtWrite n m v s⟩

/-! ### From a window offset to the window it reaches (R60, R66) -/

theorem widthBytes_eq_bytes (w : Width) : widthBytes w = bytes w := by cases w <;> rfl

theorem winBase_eq_win (b : BufSel) : winBase b = win b := by cases b <;> rfl

theorem bytes_pos (w : Width) : 0 < bytes w := by cases w <;> decide

theorem setRam_eq_withRam (s : State) (b : BufSel) (m : Memory) : setRam s b m = withRam s b m := by cases b <;> rfl

theorem windowLegal_iff (p : Params) (i n : Nat) : windowLegal p i n = true ↔ i % n = 0 ∧ i + n ≤ p.capBytes := by
  simp only [windowLegal, Bool.and_eq_true, beq_iff_eq, decide_eq_true_eq]

section
variable {p : Params} {b : BufSel} {i : Nat} {w : Width}

/-- CAP_BYTES is at most 2^24, so an index inside the capacity stays inside its window (R6, R66). -/
theorem lt_of_window_fits (wf : p.wf = true) (fits : i + bytes w ≤ p.capBytes) : i < 0x1000000 := by
  obtain ⟨-, cap, -⟩ := (Params.wf_iff p).mp wf
  have pos := bytes_pos w
  omega

theorem targetOf_win_add (wf : p.wf = true) (aligned : i % bytes w = 0) (fits : i + bytes w ≤ p.capBytes) :
    targetOf p (win b + i) w = some (.window b i) := by
  have small := lt_of_window_fits wf fits
  have legal : windowLegal p i (widthBytes w) = true := by
    rw [widthBytes_eq_bytes]
    exact (windowLegal_iff p i _).mpr ⟨aligned, fits⟩
  have first : winBase .buf0 = 0x1000000 := rfl
  have second : winBase .buf1 = 0x2000000 := rfl
  rw [← winBase_eq_win]
  cases b with
  | buf0 =>
    have notReg : ¬ winBase .buf0 + i < 0x1000 := by omega
    have notBelow : ¬ winBase .buf0 + i < winBase .buf0 := by omega
    have inside : winBase .buf0 + i < winBase .buf1 := by omega
    rw [targetOf, if_neg notReg, if_neg notBelow, if_pos inside, Nat.add_sub_cancel_left, if_pos legal]
  | buf1 =>
    have notReg : ¬ winBase .buf1 + i < 0x1000 := by omega
    have notBelow : ¬ winBase .buf1 + i < winBase .buf0 := by omega
    have notFirst : ¬ winBase .buf1 + i < winBase .buf1 := by omega
    have inside : winBase .buf1 + i < 0x3000000 := by omega
    rw [targetOf, if_neg notReg, if_neg notBelow, if_neg notFirst, if_pos inside, Nat.add_sub_cancel_left,
      if_pos legal]

theorem win_add_lt_aperture (wf : p.wf = true) (fits : i + bytes w ≤ p.capBytes) : win b + i < 0x4000000 := by
  have small := lt_of_window_fits wf fits
  cases b <;> simp only [win] <;> omega

end

/-! ### Storage windows (R66, R247) -/

theorem windowWrite_of_busy {s : State} (h : s.busy = true) (b : BufSel) (i : Nat) (w : Width) (v : Word) :
    windowWrite b i w v s = setOvr s := by
  simp [windowWrite, h]

theorem windowWrite_of_idle {s : State} (h : s.busy = false) (b : BufSel) (i : Nat) (w : Width) (v : Word) :
    windowWrite b i w v s = withRam s b (memStore (ramOf s b) i v (bytes w)) := by
  simp [windowWrite, h, widthBytes_eq_bytes, setRam_eq_withRam]

theorem windowWrite_withInputs (b : BufSel) (i : Nat) (w : Width) (v : Word) (s : State) (q : List Input) :
    windowWrite b i w v { s with inputs := q } = { windowWrite b i w v s with inputs := q } := by
  unfold windowWrite
  split
  · rfl
  · cases b <;> rfl

/-- A legal write in a window is that window's write and no bus error (R64, R66). -/
theorem writes_window (s : State) (b : BufSel) {i : Nat} {w : Width} (v : Word) (wf : s.params.wf = true)
    (aligned : i % bytes w = 0) (fits : i + bytes w ≤ s.params.capBytes) :
    writes s (win b + i) w v (windowWrite b i w v s) := by
  intro rest
  refine ⟨.done, by decide, ?_⟩
  rw [step_write s w v rest (win_add_lt_aperture wf fits)]
  simp only [writeAt, targetOf_win_add wf aligned fits, hostWrite, windowWrite_withInputs]
  rfl

/-- A store of n bytes in one buffer's RAM, seen through `Stor` (R10). -/
theorem stor_withRam_memStore (s : State) (b c : BufSel) (i n j : Nat) (v : Word) :
    stor (withRam s b (memStore (ramOf s b) i v n)) c j =
      if c = b ∧ i ≤ j ∧ j < i + n then v.extractLsb' (8 * (j - i)) 8 else stor s c j := by
  rw [← setRam_eq_withRam]
  by_cases hc : c = b
  · subst hc
    by_cases hj : i ≤ j ∧ j < i + n <;> simp [stor, memGet_memStore, hj, laneByte]
  · simp [stor, hc]

/-- Settles O40, by BUSY; the RAM the statement asks for is the one `memStore` leaves. -/
theorem windowWriteStoresLittleEndianBytes : Obligations.WindowWriteStoresLittleEndianBytes := by
  intro s b i w v wf aligned fits
  have hw := writes_window s b v wf aligned fits
  refine ⟨fun busy => ?_, fun idle => ?_⟩
  · rwa [windowWrite_of_busy busy] at hw
  · rw [windowWrite_of_idle idle] at hw
    exact ⟨_, hw, fun c j => stor_withRam_memStore s b c i (bytes w) j v⟩

end Sys2Proof.Machine
end

section
/-! PROOFS. The statements of 30_encoding.md: a word as the fields of R86, what the decoding procedure of R96 accepts,
the clauses of R94 read off the fields, and the completion of a pending word that decodes or does not. -/

namespace Sys2Proof

/-! ### A word and its fields (R86) -/

/-- A word whose reserved bits are 0 is its six fields and OP, and nothing else. -/
theorem fields_append_opField {w : Word} (hres : reservedField w = 0#16) :
    0#16 ++ slotField w ++ endField w ++ pField w ++ baField w ++ lField w ++ bField w ++ opField w = w := by
  rw [← hres, reservedField, slotField, endField, pField, baField, lField, bField, opField,
    BitVec.extractLsb'_append_extractLsb'_eq_extractLsb' (show 16 = 14 + 2 from rfl),
    BitVec.extractLsb'_append_extractLsb'_eq_extractLsb' (show 14 = 12 + 2 from rfl),
    BitVec.extractLsb'_append_extractLsb'_eq_extractLsb' (show 12 = 11 + 1 from rfl),
    BitVec.extractLsb'_append_extractLsb'_eq_extractLsb' (show 11 = 10 + 1 from rfl),
    BitVec.extractLsb'_append_extractLsb'_eq_extractLsb' (show 10 = 9 + 1 from rfl),
    BitVec.extractLsb'_append_extractLsb'_eq_extractLsb' (show 9 = 8 + 1 from rfl),
    BitVec.extractLsb'_append_extractLsb'_eq_extractLsb' (show 8 = 0 + 8 from rfl)]
  exact BitVec.extractLsb'_eq_self

theorem toNat_eq_zero_iff {n : Nat} (x : BitVec n) : x.toNat = 0 ↔ x = 0#n := by
  rw [← BitVec.toNat_inj, BitVec.toNat_ofNat, Nat.zero_mod]

theorem opcodeOf_opByte (op : Opcode) : opcodeOf (opByte op) = some op := by cases op <;> rfl

/-- An operation has one OP value (R87). -/
theorem eq_opByte_of_opcodeOf {b : BitVec 8} {op : Opcode} (h : opcodeOf b = some op) : b = opByte op := by
  unfold opcodeOf at h
  split at h
  case h_16 => cases h
  all_goals
    cases h
    exact BitVec.eq_of_toNat_eq (by assumption)

/-! ### The values of one field (R89 to R91, R111) -/

theorem bufSelBit_bufSelOf (b : BitVec 1) : bufSelBit (bufSelOf b) = b := by revert b; decide

theorem numberingBit_numberingOf (l : BitVec 1) : numberingBit (numberingOf l) = l := by revert l; decide

theorem flagBit_flagOf (b : BitVec 1) : flagBit (flagOf b) = b := by revert b; decide

theorem slotBits_toFin (n : BitVec 2) : slotBits n.toFin = n := rfl

theorem endianOf_eq_none_iff (e : BitVec 2) : endianOf e = none ↔ e = 3#2 := by revert e; decide

/-- The END bits of a byte order (R89). -/
def endBits : Endian → BitVec 2
  | .be => 0#2
  | .le => 1#2
  | .ne => 2#2

theorem eq_endBits_of_endianOf {b : BitVec 2} {e : Endian} (h : endianOf b = some e) : b = endBits e := by
  revert b
  cases e <;> decide

/-! ### What the decoding procedure accepts (R96) -/

theorem decode_eq_ok_iff (w : Word) (i : Instr) :
    decode w = .ok i ↔ ∃ op, opField w = opByte op ∧ reservedField w = 0#16 ∧ hasUntakenField op w = false ∧
      instrOf op w = some i := by
  constructor
  · intro h
    unfold decode at h
    split at h
    · contradiction
    next op hop =>
      split at h
      · contradiction
      next hres =>
        split at h
        · contradiction
        next huntaken =>
          split at h
          · contradiction
          next j hinstr =>
            cases h
            exact ⟨op, eq_opByte_of_opcodeOf hop, not_not.mp hres, Bool.eq_false_iff.mpr huntaken, hinstr⟩
  · rintro ⟨op, hop, hres, huntaken, hinstr⟩
    simp [decode, hop, opcodeOf_opByte, hres, huntaken, hinstr]

/-- The fields an operation does not take are 0 (R88). -/
theorem hasUntakenField_eq_false_iff (op : Opcode) (w : Word) :
    hasUntakenField op w = false ↔ ∀ f ∈ allFields.filter (fun f => !(fieldsTaken op).contains f), fieldValue w f = 0 := by
  simp [hasUntakenField, and_imp]

/-- The word of an instruction is its operation's, with the fields the instruction was read from. -/
theorem encode_of_instrOf {w : Word} {op : Opcode} {i : Instr} (huntaken : hasUntakenField op w = false)
    (h : instrOf op w = some i) :
    encode i = assemble op (bField w) (lField w) (baField w) (pField w) (endField w) (slotField w) := by
  rw [hasUntakenField_eq_false_iff] at huntaken
  cases op
  case readUint | readInt =>
    simp [allFields, fieldsTaken, fieldValue, toNat_eq_zero_iff] at huntaken
    simp only [instrOf] at h
    split at h
    case h_4 => cases h
    all_goals
      cases h
      next e he =>
      simp [encode, huntaken, numberingBit_numberingOf, eq_endBits_of_endianOf he, endBits]
  all_goals
    simp [allFields, fieldsTaken, fieldValue, toNat_eq_zero_iff] at huntaken
    cases h
    simp [encode, huntaken, bufSelBit_bufSelOf, numberingBit_numberingOf, flagBit_flagOf, slotBits_toFin]

/-! ### Decoding and encoding are inverse (R86 to R88, R96) -/

theorem decode_encode (i : Instr) : decode (encode i) = .ok i := by
  cases i with
  | nop | findallNext => rfl
  | zeros b | load b => cases b <;> rfl
  | getBit l | getByteRange l => cases l <;> rfl
  | readUintBe l | readUintLe l | readUintNe l => cases l <;> rfl
  | readIntBe l | readIntLe l | readIntNe l => cases l <;> rfl
  | extract l p => cases l <;> cases p <;> rfl
  | fmtBuild n | nfLookup n => fin_cases n <;> rfl
  | nfDecode l n => cases l <;> fin_cases n <;> rfl
  | find ba | rfind ba | findallFirst ba => cases ba <;> rfl

/-- A word that decodes has no bit outside the fields of its operation. -/
theorem encode_of_decode {w : Word} {i : Instr} (h : decode w = .ok i) : encode i = w := by
  obtain ⟨op, hop, hres, huntaken, hinstr⟩ := (decode_eq_ok_iff w i).mp h
  rw [encode_of_instrOf huntaken hinstr, assemble, ← hop, fields_append_opField hres]

/-- Settles O1: the words are literals, so the decoding procedure runs on them. -/
theorem exampleWordsDecode : Obligations.ExampleWordsDecode :=
  ⟨rfl, rfl, rfl, rfl, rfl, rfl, rfl, rfl, rfl, rfl, rfl⟩

/-- Settles O2: one direction by the constructors of `Instr`, the other by the fields of the word. -/
theorem decodeEncodeAgree : Obligations.DecodeEncodeAgree := ⟨decode_encode, fun _ _ => encode_of_decode⟩

/-! ### The masks of R94 and the fields of R86 -/

/-- The bits of a word from `start` on, `len` of them. -/
def fieldMask (start len : Nat) : Word := (BitVec.allOnes len).setWidth 32 <<< start

/-- A mask cuts out its field, left in its place. -/
theorem and_fieldMask (w : Word) {start len : Nat} (fits : start + len ≤ 32) :
    w &&& fieldMask start len = (w.extractLsb' start len).setWidth 32 <<< start := by
  refine BitVec.eq_of_getLsbD_eq fun i hi => ?_
  simp only [fieldMask, BitVec.getLsbD_and, BitVec.getLsbD_shiftLeft, BitVec.getLsbD_setWidth, BitVec.getLsbD_allOnes,
    BitVec.getLsbD_extractLsb']
  by_cases hs : i < start
  · simp [hs]
  · have place : start + (i - start) = i := by omega
    simp [hi, hs, place, Bool.and_comm, show i - start < 32 by omega]

theorem shiftLeft_setWidth_eq_zero_iff {start len : Nat} (fits : start + len ≤ 32) (x : BitVec len) :
    x.setWidth 32 <<< start = 0#32 ↔ x = 0#len := by
  rw [← toNat_eq_zero_iff, ← toNat_eq_zero_iff, BitVec.toNat_shiftLeft, BitVec.toNat_setWidth, Nat.shiftLeft_eq]
  have bound : x.toNat * 2 ^ start < 2 ^ 32 :=
    calc x.toNat * 2 ^ start < 2 ^ len * 2 ^ start := Nat.mul_lt_mul_of_pos_right x.isLt (Nat.two_pow_pos start)
      _ = 2 ^ (start + len) := by rw [← pow_add, add_comm]
      _ ≤ 2 ^ 32 := Nat.pow_le_pow_right (by decide) fits
  have small : x.toNat < 2 ^ 32 := x.isLt.trans_le (Nat.pow_le_pow_right (by decide) (by omega))
  rw [Nat.mod_eq_of_lt small, Nat.mod_eq_of_lt bound]
  simp

theorem and_fieldMask_eq_zero_iff (w : Word) {start len : Nat} (fits : start + len ≤ 32) :
    w &&& fieldMask start len = 0#32 ↔ w.extractLsb' start len = 0#len := by
  rw [and_fieldMask w fits, shiftLeft_setWidth_eq_zero_iff fits]

/-- The mask of a field beside OP (R86). -/
def maskOf : FieldName → Word
  | .B => fieldMask 8 1
  | .L => fieldMask 9 1
  | .BA => fieldMask 10 1
  | .P => fieldMask 11 1
  | .END => fieldMask 12 2
  | .SLOT => fieldMask 14 2

theorem and_maskOf_eq_zero_iff (w : Word) (f : FieldName) : w &&& maskOf f = 0#32 ↔ fieldValue w f = 0 := by
  cases f <;> exact (and_fieldMask_eq_zero_iff w (by decide)).trans (toNat_eq_zero_iff _).symm

theorem and_foldr_maskOf_eq_zero_iff (w : Word) (fs : List FieldName) :
    w &&& fs.foldr (fun f m => maskOf f ||| m) 0#32 = 0#32 ↔ ∀ f ∈ fs, fieldValue w f = 0 := by
  induction fs with
  | nil => simp
  | cons f fs ih => simp [BitVec.and_or_distrib_left, and_maskOf_eq_zero_iff, ih]

/-- The bits R87's column keeps at 0 are the bits of the fields the operation does not take. -/
theorem not_wordTakenBits_opByte (op : Opcode) :
    0xFF00#32 &&& ~~~(wordTakenBits (opByte op).toNat) =
      (allFields.filter fun f => !(fieldsTaken op).contains f).foldr (fun f m => maskOf f ||| m) 0#32 := by
  cases op <;> rfl

/-! ### The clauses of R94 -/

theorem and_opMask (w : Word) : w &&& 0xFF#32 = (opField w).setWidth 32 := by
  have h := and_fieldMask w (start := 0) (len := 8) (by decide)
  rwa [BitVec.shiftLeft_zero] at h

theorem toNat_and_opMask (w : Word) : (w &&& 0xFF#32).toNat = (opField w).toNat := by
  rw [and_opMask, BitVec.toNat_setWidth]
  exact Nat.mod_eq_of_lt ((opField w).isLt.trans (by decide))

/-- Clause (a): OP is in the table of R87. -/
theorem wordOpKnown_iff (w : Word) : wordOpKnown w = true ↔ ∃ op, opField w = opByte op := by
  rw [wordOpKnown, toNat_and_opMask]
  generalize opField w = b
  constructor
  · intro h
    have known : opcodeOf b ≠ none := by
      revert b
      decide
    obtain ⟨op, hop⟩ := Option.ne_none_iff_exists'.mp known
    exact ⟨op, eq_opByte_of_opcodeOf hop⟩
  · rintro ⟨op, rfl⟩
    cases op <;> rfl

/-- Clause (b): the reserved bits are 0. -/
theorem wordHighZero_iff (w : Word) : wordHighZero w = true ↔ reservedField w = 0#16 := by
  rw [wordHighZero, beq_iff_eq]
  exact and_fieldMask_eq_zero_iff w (start := 16) (len := 16) (by decide)

/-- Clause (c): every field the operation does not take is 0. -/
theorem wordFieldsZero_iff {w : Word} {op : Opcode} (hop : opField w = opByte op) :
    wordFieldsZero w = true ↔ hasUntakenField op w = false := by
  rw [wordFieldsZero, beq_iff_eq, toNat_and_opMask, hop, BitVec.and_assoc, not_wordTakenBits_opByte,
    and_foldr_maskOf_eq_zero_iff, hasUntakenField_eq_false_iff]

theorem and_endMask_eq_iff (w : Word) : w &&& 0x3000#32 = 0x3000#32 ↔ endField w = 3#2 := by
  have h : w &&& 0x3000#32 = (endField w).setWidth 32 <<< 12 := and_fieldMask w (start := 12) (len := 2) (by decide)
  rw [h]
  generalize endField w = e
  revert e
  decide

/-- READ_UINT and READ_INT are the operations with an END field. -/
theorem and_readMask_eq_iff {w : Word} {op : Opcode} (hop : opField w = opByte op) :
    w &&& 0xFE#32 = 0x10#32 ↔ op = .readUint ∨ op = .readInt := by
  have h : w &&& 0xFE#32 = (opByte op).setWidth 32 &&& 0xFE#32 := by
    rw [← hop, ← and_opMask, BitVec.and_assoc]
    rfl
  rw [h]
  cases op <;> decide

/-- An operation names an instruction unless it reads END = 3 (R89). -/
theorem exists_instrOf_iff (op : Opcode) (w : Word) :
    (∃ i, instrOf op w = some i) ↔ ¬ ((op = .readUint ∨ op = .readInt) ∧ endField w = 3#2) := by
  cases op
  case readUint | readInt =>
    rw [← endianOf_eq_none_iff]
    cases h : endianOf (endField w) with
    | none => simp [instrOf, h]
    | some e => cases e <;> simp [instrOf, h]
  all_goals simp [instrOf]

/-- Clause (d): READ_UINT and READ_INT do not have END = 3. -/
theorem wordEndLegal_iff {w : Word} {op : Opcode} (hop : opField w = opByte op) :
    wordEndLegal w = true ↔ ∃ i, instrOf op w = some i := by
  rw [exists_instrOf_iff, wordEndLegal, Bool.not_eq_true', ← Bool.not_eq_true, Bool.and_eq_true, beq_iff_eq, beq_iff_eq,
    and_readMask_eq_iff hop, and_endMask_eq_iff]

theorem wordLegal_iff (w : Word) :
    wordLegal w = true ↔ ((wordOpKnown w = true ∧ wordHighZero w = true) ∧ wordFieldsZero w = true) ∧
      wordEndLegal w = true := by
  simp only [wordLegal, Bool.and_eq_true]

theorem exists_decode_iff_wordLegal (w : Word) : (∃ i, decode w = .ok i) ↔ wordLegal w = true := by
  rw [wordLegal_iff, wordHighZero_iff]
  constructor
  · rintro ⟨i, h⟩
    obtain ⟨op, hop, hres, huntaken, hinstr⟩ := (decode_eq_ok_iff w i).mp h
    exact ⟨⟨⟨(wordOpKnown_iff w).mpr ⟨op, hop⟩, hres⟩, (wordFieldsZero_iff hop).mpr huntaken⟩,
      (wordEndLegal_iff hop).mpr ⟨i, hinstr⟩⟩
  · rintro ⟨⟨⟨known, hres⟩, fields⟩, ends⟩
    obtain ⟨op, hop⟩ := (wordOpKnown_iff w).mp known
    obtain ⟨i, hinstr⟩ := (wordEndLegal_iff hop).mp ends
    exact ⟨i, (decode_eq_ok_iff w i).mpr ⟨op, hop, hres, (wordFieldsZero_iff hop).mp fields, hinstr⟩⟩

/-- Settles O3: clause (a) is the known OP, and each other clause is one of the later checks of R96. -/
theorem decodesExactlyLegalWords : Obligations.DecodesExactlyLegalWords := exists_decode_iff_wordLegal

end Sys2Proof

namespace Sys2Proof.Machine

open Sys2Proof.Rules

/-! ### Whose turn it is (R74, R222) -/

theorem step_of_noInputs {s : State} (h : s.inputs = []) : step s = engineStep s := by
  rw [step, h]

theorem step_of_engineTurn {s : State} {rest : List Input} (h : s.inputs = .engineTurn :: rest) :
    step s = engineStep { s with inputs := rest } := by
  rw [step, h]
  rfl

theorem engineStep_of_idle {s : State} (h : s.busy = false) : engineStep s = .next s := by
  simp [engineStep, h]

theorem engineStep_of_decode {s : State} {i : Instr} (busy : s.busy = true) (h : decode s.pendCmd = .ok i) :
    engineStep s = exec i s := by
  simp [engineStep, completionStep, busy, h]

theorem engineStep_of_illegal {s : State} (busy : s.busy = true) (h : wordLegal s.pendCmd = false) :
    engineStep s = .next (failed 6#4 s) := by
  cases hd : decode s.pendCmd with
  | error e => simp [engineStep, completionStep, busy, hd, raiseErr_eq_failed, errorNumber]
  | ok i =>
    have legal := (exists_decode_iff_wordLegal s.pendCmd).mp ⟨i, hd⟩
    simp [legal] at h

/-- Settles O4: an illegal word does not decode, whichever way the engine's turn comes. -/
theorem illegalWordCompletesWithCodeSix : Obligations.IllegalWordCompletesWithCodeSix := by
  refine fun s busy illegal => ⟨fun h => ?_, fun rest h => ?_⟩
  · rw [step_of_noInputs h, engineStep_of_illegal busy illegal]
  · exact (step_of_engineTurn h).trans (engineStep_of_illegal (s := { s with inputs := rest }) busy illegal)

/-- Settles O5, by BUSY and by whether a turn is waiting. -/
theorem stepRunsDecodedInstruction : Obligations.StepRunsDecodedInstruction := by
  refine ⟨fun s i busy hd => ⟨fun h => ?_, fun rest h => ?_⟩, fun s idle => ⟨fun h => ?_, fun rest h => ?_⟩⟩
  · rw [step_of_noInputs h, engineStep_of_decode busy hd]
  · exact (step_of_engineTurn h).trans (engineStep_of_decode (s := { s with inputs := rest }) busy hd)
  · rw [step_of_noInputs h, engineStep_of_idle idle]
  · exact (step_of_engineTurn h).trans (engineStep_of_idle (s := { s with inputs := rest }) idle)

end Sys2Proof.Machine
end

section
/-! PROOFS. What a command does as data, so that a statement about every command is a case split over it: the frames of
every command and the fields every completion sets (R27 to R31, R44, R216). -/

namespace Sys2Proof.Machine

open Sys2Proof.Rules

/-! ### The effects of commands -/

/-- What a command does to the block, with the values it has worked out: one constructor per case of `exec_cases`. -/
inductive Effect where
  | fail (x : ErrorCode)
  | nothing
  | result (r : Result)
  | zeros (b : BufSel) (n : Nat)
  | load (b : BufSel) (off n : Nat)
  | build (n : Slot)
  | search (p : Option Nat)
  | startFa (p : Option Nat) (en : Nat) (ba : Bool)
  | advanceFa (p : Option Nat) (en : Nat) (ba : Bool)

/-- The state an effect leaves. -/
def Effect.apply (e : Effect) (s : State) : State :=
  match e with
  | .fail x => raiseErr x s
  | .nothing => completeNoResult s
  | .result r => complete r s
  | .zeros b n => completeNoResult (constructZeros b n s)
  | .load b off n => completeNoResult (deactivateFa (setBufRegs s b (loadedBuffer off n)))
  | .build n => completeNoResult (buildSlot n s)
  | .search p => completeSearch p s
  | .startFa p en ba => completeSearch p (Machine.advanceFa p en ba { s with faEnd := BitVec.ofNat 32 en, faBa := ba })
  | .advanceFa p en ba => completeSearch p (Machine.advanceFa p en ba s)

/-- Which effects an instruction can have in a state: what its checks have let through. -/
def Effect.Allowed (i : Instr) (s : State) : Effect → Prop
  | .fail x => x ≠ .illegal
  | .nothing => i = .nop
  | .result _ => isReader i = true
  | .zeros b n => i = .zeros b ∧ n < 2 ^ 32 ∧ n ≤ 8 * s.params.capBytes
  | .load b off n => i = .load b ∧ off < 8 ∧ n < 2 ^ 32 ∧ off + n ≤ 8 * s.params.capBytes
  | .build n => i = .fmtBuild n ∧ fmtLegal s.fmt[n] = true
  | .search _ => isFinder i = true
  | .startFa _ en _ => isFinder i = true ∧ bitLenOf s .buf1 ≠ 0 ∧ en ≤ bitLenOf s .buf0
  | .advanceFa _ _ _ => isFinder i = true ∧ s.faActive = true

/-- Every command has one effect. -/
theorem exec_effect (i : Instr) (s : State) : ∃ e : Effect, e.Allowed i s ∧ exec i s = .next (e.apply s) := by
  rcases exec_cases i s with ⟨x, hx, error⟩ | ⟨hi, nop⟩ | ⟨b, hi, cap, zeros⟩ | ⟨b, hi, cap, hoff, hlen, load⟩ |
    ⟨hi, r, reader⟩ | ⟨n, hi, legal, build⟩ | ⟨hi, ⟨needle, _, hen⟩, checked⟩ | ⟨hi, _, inactive⟩ | ⟨hi, active, next⟩
  · exact ⟨.fail x, hx, error⟩
  · exact ⟨.nothing, hi, nop⟩
  · exact ⟨.zeros b (operand0 s), ⟨hi, s.pendArg0.isLt, cap⟩, zeros⟩
  · exact ⟨.load b (operand0 s) (operand1 s), ⟨hi, hoff, s.pendArg1.isLt, by omega⟩, load⟩
  · exact ⟨.result r, hi, reader⟩
  · exact ⟨.build n, ⟨hi, legal⟩, build⟩
  · cases i <;> simp only [isCheckedSearch, Bool.false_eq_true] at hi
    case find | rfind => exact ⟨.search _, rfl, checked⟩
    case findallFirst => exact ⟨.startFa _ _ _, ⟨rfl, needle, hen⟩, checked⟩
  · exact ⟨.search none, by rw [hi]; rfl, inactive⟩
  · exact ⟨.advanceFa _ _ _, ⟨by rw [hi]; rfl, active⟩, next⟩

theorem exists_effect_of_exec {i : Instr} {s t : State} (h : exec i s = .next t) :
    ∃ e : Effect, e.Allowed i s ∧ t = e.apply s := by
  obtain ⟨e, allowed, he⟩ := exec_effect i s
  exact ⟨e, allowed, Host.Outcome.next.inj (h.symm.trans he)⟩

/-! ### What no command writes (R29, R33, R34, R40, R45) -/

/-- t has the parameters, the host's registers and the model's own fields of s. -/
abbrev SameHostRegisters (s t : State) : Prop :=
  t.params = s.params ∧ t.cmd = s.cmd ∧ t.arg0 = s.arg0 ∧ t.arg1 = s.arg1 ∧ t.arg2 = s.arg2 ∧ t.ovr = s.ovr ∧
  t.fmt = s.fmt ∧ t.pendCmd = s.pendCmd ∧ t.pendArg0 = s.pendArg0 ∧ t.pendArg1 = s.pendArg1 ∧
  t.pendArg2 = s.pendArg2 ∧ t.powerOns = s.powerOns ∧ t.draws = s.draws ∧ t.hostFault = s.hostFault ∧
  t.responses = s.responses ∧ t.inputs = s.inputs

theorem Effect.apply_sameHostRegisters (e : Effect) (s : State) : SameHostRegisters s (e.apply s) := by
  have same : SameHostRegisters s s := ⟨rfl, rfl, rfl, rfl, rfl, rfl, rfl, rfl, rfl, rfl, rfl, rfl, rfl, rfl, rfl, rfl⟩
  cases e with
  | fail | nothing | result | build => exact same
  | zeros b | load b => cases b <;> exact same
  | search p | startFa p | advanceFa p => cases p <;> exact same

/-- Settles O30, by the effects of commands. -/
theorem commandsKeepHostRegisters : Obligations.CommandsKeepHostRegisters := by
  intro i s t h
  obtain ⟨e, -, rfl⟩ := exists_effect_of_exec h
  exact e.apply_sameHostRegisters s

/-! ### What every completion sets (R27, R31, R44, R216) -/

theorem Effect.apply_completes (e : Effect) (s : State) :
    (e.apply s).busy = false ∧ (e.apply s).lastOp = s.pendCmd.extractLsb' 0 8 := by
  cases e with
  | fail | nothing | result | build => exact ⟨rfl, rfl⟩
  | zeros b | load b => cases b <;> exact ⟨rfl, rfl⟩
  | search p | startFa p | advanceFa p => cases p <;> exact ⟨rfl, rfl⟩

/-- ERR and ERRCODE after a command: ILLEGAL is no command's code. -/
theorem Effect.apply_errorFields {e : Effect} {i : Instr} {s : State} (allowed : e.Allowed i s) :
    ((e.apply s).err = false ∧ (e.apply s).errCode = 0#4) ∨
    ((e.apply s).err = true ∧ (e.apply s).errCode ∈ [1#4, 2#4, 4#4, 5#4, 7#4]) := by
  cases e with
  | fail x =>
    refine .inr ⟨rfl, ?_⟩
    change errorNumber x ∈ _
    cases x
    case illegal => exact absurd rfl allowed
    all_goals decide
  | nothing | result | build | zeros | load => exact .inl ⟨rfl, rfl⟩
  | search p | startFa p | advanceFa p => cases p <;> exact .inl ⟨rfl, rfl⟩

/-- Settles O28, by the effects of commands. -/
theorem everyCommandCompletes : Obligations.EveryCommandCompletes := by
  intro i s
  obtain ⟨e, allowed, he⟩ := exec_effect i s
  obtain ⟨busy, lastOp⟩ := e.apply_completes s
  exact ⟨e.apply s, he, busy, lastOp, Effect.apply_errorFields allowed⟩

/-! ### What each family writes (R118, R197) -/

/-- Settles O31: an effect writes its own family's state, and an instruction has effects of its family only. -/
theorem eachFamilyWritesOnlyItsState : Obligations.EachFamilyWritesOnlyItsState := by
  intro i s t h
  obtain ⟨e, allowed, rfl⟩ := exists_effect_of_exec h
  cases e with
  | fail x => simp [Effect.apply]
  | nothing => simp [Effect.apply]
  | result r =>
    have hi : isReader i = true := allowed
    cases i <;> simp [isReader] at hi <;> simp [Effect.apply, isConstruction, isBuild]
  | zeros b n =>
    obtain ⟨rfl, -⟩ := allowed
    simp [Effect.apply, constructZeros, isConstruction, isFinder, isBuild]
  | load b off n =>
    obtain ⟨rfl, -⟩ := allowed
    simp [Effect.apply, isConstruction, isFinder, isBuild]
  | build n =>
    obtain ⟨rfl, -⟩ := allowed
    simp [Effect.apply, buildSlot, isConstruction, isFinder, isBuild]
  | search p =>
    have hi : isFinder i = true := allowed
    cases i <;> simp [isFinder] at hi <;> simp [Effect.apply, completeSearch_eq, isConstruction, isFinder, isBuild]
  | startFa p | advanceFa p =>
    obtain ⟨hi, -⟩ := allowed
    cases i <;> simp [isFinder] at hi <;>
      simp [Effect.apply, completeSearch_eq, advanceFa_eq, isConstruction, isFinder, isBuild]

end Sys2Proof.Machine
end

section
/-! PROOFS. The invariants of Safety.lean along every step: what a step can do as one notion of an invariant, the
buffers (R37), the storage RAMs (R38), the error fields (R210), the tables (R169), the iterator (R195) and the parameters
(R45), and their values at reset (R46). -/

namespace Sys2Proof.Machine

open Sys2Proof.Rules

/-! ### Invariants of a step -/

/-- s with the host's side of h: the fields that turns, host accesses, dropped writes and the acceptance of a command
write. -/
def withHostSide (h s : State) : State :=
  { s with
    busy := h.busy, ovr := h.ovr
    cmd := h.cmd, arg0 := h.arg0, arg1 := h.arg1, arg2 := h.arg2
    pendCmd := h.pendCmd, pendArg0 := h.pendArg0, pendArg1 := h.pendArg1, pendArg2 := h.pendArg2
    draws := h.draws, hostFault := h.hostFault, responses := h.responses, inputs := h.inputs }

/-- What a property of the block needs for every step to keep it. -/
structure StepInvariant (I : State → Prop) : Prop where
  hostSide : ∀ h s, I s → I (withHostSide h s)
  command : ∀ (i : Instr) (e : Effect) (s : State), e.Allowed i s → I s → I (e.apply s)
  illegal : ∀ s, I s → I (raiseErr .illegal s)
  soft : ∀ s, I s → I (softReset s)
  powerOn : ∀ s, I s → I (powerOnReset s)
  fmtWrite : ∀ n v s, I s → I (fmtWrite n v s)
  window : ∀ b i (w : Width) v s, i + widthBytes w ≤ s.params.capBytes → I s →
    I (setRam s b (memStore (ramOf s b) i v (widthBytes w)))

section
variable {I : State → Prop} (inv : StepInvariant I) {s : State}
include inv

theorem StepInvariant.regWrite (r : Reg) (v : Word) (h : I s) : I (regWrite r v s) := by
  rcases regWrite_cases r v s with ⟨-, e⟩ | ⟨-, -, e⟩ | ⟨-, -, e⟩ | ⟨-, e⟩ | ⟨-, e⟩ | ⟨-, e⟩ | ⟨n, -, -, e⟩ | e <;> rw [e]
  · rcases ctrlWrite_cases v s with e | e | e <;> rw [e]
    · exact inv.soft s h
    · exact inv.hostSide { s with ovr := false } s h
    · exact h
  · exact inv.hostSide (setOvr s) s h
  · exact inv.hostSide (acceptCommand v s) s h
  · exact inv.hostSide { s with arg0 := v } s h
  · exact inv.hostSide { s with arg1 := v } s h
  · exact inv.hostSide { s with arg2 := v } s h
  · exact inv.fmtWrite n v s h
  · exact h

theorem StepInvariant.respond (r : Response) (h : I s) : I (respond r s) :=
  inv.hostSide (Machine.respond r s) s h

theorem StepInvariant.busError (h : I s) : I (busError s) :=
  inv.hostSide (Machine.busError s) s h

theorem StepInvariant.readAt (a : Nat) (w : Width) (h : I s) : I (readAt a w s) := by
  rcases readAt_cases a w s with ⟨-, e⟩ | ⟨v, e⟩ | ⟨v, b, i, -, -, e⟩ <;> rw [e]
  · exact inv.busError h
  · exact inv.respond _ h
  · exact inv.respond _ (inv.hostSide { s with draws := s.draws + 1 } s h)

theorem StepInvariant.writeAt (a : Nat) (w : Width) (v : Word) (h : I s) : I (writeAt a w v s) := by
  rcases writeAt_cases a w v s with ⟨-, e⟩ | ⟨r, -, e⟩ | ⟨b, i, target, e⟩ <;> rw [e]
  · exact inv.busError h
  · exact inv.respond _ (inv.regWrite r v h)
  · refine inv.respond _ ?_
    obtain ⟨-, fits⟩ := targetOf_window target
    rcases windowWrite_cases b i w v s with ⟨-, e⟩ | ⟨-, e⟩ <;> rw [e]
    · exact inv.hostSide (setOvr s) s h
    · exact inv.window b i w v s fits h

theorem StepInvariant.of_engineState {u : State} (hu : engineState s u) (h : I s) : I u := by
  rcases hu with ⟨-, rfl⟩ | ⟨rest, -, rfl⟩
  · exact h
  · exact inv.hostSide { s with inputs := rest } s h

/-- Every step keeps an invariant: each turn is one of the moves it is closed under. -/
theorem StepInvariant.step {t : State} (h : I s) (hstep : step s = .next t) : I t := by
  have waiting : ∀ q, I { s with inputs := q } := fun q => inv.hostSide { s with inputs := q } s h
  rcases step_cases hstep with ⟨u, hu, -, rfl⟩ | ⟨u, -, hu, -, -, rfl⟩ | ⟨u, i, hu, -, -, exec⟩ | ⟨rest, -, rfl⟩ |
    ⟨-, w, rest, a, -, -, rfl⟩ | ⟨-, w, v, rest, a, -, -, rfl⟩
  · exact inv.of_engineState hu h
  · exact inv.illegal u (inv.of_engineState hu h)
  · obtain ⟨e, allowed, rfl⟩ := exists_effect_of_exec exec
    exact inv.command i e u allowed (inv.of_engineState hu h)
  · exact inv.powerOn _ (waiting rest)
  · exact inv.readAt a w (waiting rest)
  · exact inv.writeAt a w v (waiting rest)

end

/-! ### The buffers (R36, R37) -/

theorem bufferWf_empty (p : Params) : bufferWf p Buffer.empty :=
  ⟨rfl, fun _ => rfl, Nat.zero_le _, Nat.zero_le _⟩

/-- A buffer whose bits lie in the capacity is well formed, its registers as LOAD writes them (R114). -/
theorem bufferWf_loadedBuffer {p : Params} {off n : Nat} (hoff : off < 8) (hn : n < 2 ^ 32)
    (fits : off + n ≤ 8 * p.capBytes) : bufferWf p (loadedBuffer off n) := by
  rw [loadedBuffer]
  split
  · exact bufferWf_empty p
  next nonempty =>
    have offset : (BitVec.ofNat 3 off).toNat = off := Nat.mod_eq_of_lt hoff
    have bitLen : (BitVec.ofNat 32 n).toNat = n := Nat.mod_eq_of_lt hn
    have nBytes : (BitVec.ofNat 32 (ceilDiv8 (off + n))).toNat = ceilDiv8 (off + n) :=
      Nat.mod_eq_of_lt (by simp only [ceilDiv8]; omega)
    refine ⟨by rw [nBytes, offset, bitLen], fun h => ?_, by rw [bitLen]; omega, ?_⟩
    · exact absurd (bitLen.symm.trans (congrArg BitVec.toNat h)) nonempty
    · rw [nBytes, ceilDiv8]
      omega

/-- ZEROS writes the registers of a buffer at offset 0 (R113). -/
theorem zeros_registers (n : Nat) :
    { offset := 0#3, bitLen := BitVec.ofNat 32 n, nBytes := BitVec.ofNat 32 (ceilDiv8 n) } = loadedBuffer 0 n := by
  rw [loadedBuffer, Nat.zero_add]
  split
  next h => rw [h]; rfl
  next => rfl

theorem buffersWf_iff (s : State) : buffersWf s ↔ ∀ b, bufferWf s.params (bufRegs s b) :=
  ⟨fun ⟨h0, h1⟩ b => by cases b; exacts [h0, h1], fun h => ⟨h .buf0, h .buf1⟩⟩

theorem buffersWf_setBufRegs {s : State} {b : BufSel} {v : Buffer} (hv : bufferWf s.params v) (h : buffersWf s) :
    buffersWf (setBufRegs s b v) := by
  rw [buffersWf_iff] at h ⊢
  intro c
  rw [setBufRegs_params, bufRegs_setBufRegs]
  split
  · exact hv
  · exact h c

theorem buffersWf_setRam {s : State} (b : BufSel) (m : Memory) (h : buffersWf s) : buffersWf (setRam s b m) := by
  cases b <;> exact h

theorem buffersWf_stepInvariant : StepInvariant buffersWf where
  hostSide _ _ h := h
  command i e s allowed h := by
    cases e with
    | fail | nothing | result | build => exact h
    | search p | startFa p | advanceFa p => cases p <;> exact h
    | zeros b n =>
      obtain ⟨-, hn, cap⟩ := allowed
      have registers : bufferWf (setRam s b (memZero (ramOf s b) (ceilDiv8 n))).params (loadedBuffer 0 n) := by
        rw [setRam_params]
        exact bufferWf_loadedBuffer (by decide) hn (by omega)
      rw [Effect.apply, constructZeros, zeros_registers]
      exact buffersWf_setBufRegs (b := b) registers (buffersWf_setRam b _ h)
    | load b off n =>
      obtain ⟨-, hoff, hn, fits⟩ := allowed
      exact buffersWf_setBufRegs (b := b) (bufferWf_loadedBuffer hoff hn fits) h
  illegal _ h := h
  soft s _ := ⟨bufferWf_empty s.params, bufferWf_empty s.params⟩
  powerOn s _ := ⟨bufferWf_empty s.params, bufferWf_empty s.params⟩
  fmtWrite _ _ _ h := h
  window b _ _ _ _ _ h := buffersWf_setRam b _ h

/-- Settles O50: only ZEROS, LOAD and the resets write the registers of a buffer. -/
theorem stepsKeepBufferInvariant : Obligations.StepsKeepBufferInvariant :=
  fun _ _ => buffersWf_stepInvariant.step

/-! ### The storage RAMs (R38) -/

/-- A RAM in canonical form that holds no index at or above the capacity. -/
def RamWf (p : Params) (m : Memory) : Prop := Memory.wf m = true ∧ Memory.within p.capBytes m = true

theorem ramsWf_iff (s : State) : ramsWf s ↔ ∀ b, RamWf s.params (ramOf s b) :=
  ⟨fun ⟨h0, h1⟩ b => by cases b; exacts [h0, h1], fun h => ⟨h .buf0, h .buf1⟩⟩

theorem ramsWf_setRam {s : State} {b : BufSel} {m : Memory} (hm : RamWf s.params m) (h : ramsWf s) :
    ramsWf (setRam s b m) := by
  rw [ramsWf_iff] at h ⊢
  intro c
  rw [setRam_params, ramOf_setRam]
  split
  · exact hm
  · exact h c

theorem ramsWf_setBufRegs {s : State} (b : BufSel) (v : Buffer) (h : ramsWf s) : ramsWf (setBufRegs s b v) := by
  cases b <;> exact h

theorem ramsWf_stepInvariant : StepInvariant ramsWf where
  hostSide _ _ h := h
  command i e s allowed h := by
    cases e with
    | fail | nothing | result | build => exact h
    | search p | startFa p | advanceFa p => cases p <;> exact h
    | zeros b n =>
      obtain ⟨-, -, cap⟩ := allowed
      obtain ⟨rising, inside⟩ := (ramsWf_iff s).mp h b
      have bytes : ceilDiv8 n ≤ s.params.capBytes := by
        simp only [ceilDiv8]
        omega
      exact ramsWf_setBufRegs b _ (ramsWf_setRam (b := b) ⟨memZero_wf _ _ rising, memZero_within _ _ _ bytes inside⟩ h)
    | load b off n => exact ramsWf_setBufRegs b _ h
  illegal _ h := h
  soft _ h := h
  powerOn _ _ := ⟨⟨rfl, rfl⟩, rfl, rfl⟩
  fmtWrite _ _ _ h := h
  window b i w v s fits h := by
    obtain ⟨rising, inside⟩ := (ramsWf_iff s).mp h b
    exact ramsWf_setRam ⟨memStore_wf _ _ _ _ rising, memStore_within _ _ _ _ _ fits inside⟩ h

/-- Settles O51: ZEROS stays inside the capacity, and so does a legal window write. -/
theorem stepsKeepStorageCanonical : Obligations.StepsKeepStorageCanonical :=
  fun _ _ => ramsWf_stepInvariant.step

/-! ### The error fields (R27, R210) -/

theorem errorFieldsWf_raiseErr (x : ErrorCode) (s : State) : errorFieldsWf (raiseErr x s) := by
  rw [errorFieldsWf, raiseErr_err, raiseErr_errCode]
  cases x <;> decide

/-- ERR = 0 with ERRCODE = 0, as a success and both resets leave them. -/
theorem errorFieldsWf_of_clear {s : State} (herr : s.err = false) (hcode : s.errCode = 0#4) : errorFieldsWf s := by
  rw [errorFieldsWf, herr, hcode]
  decide

theorem errorFieldsWf_setRam {s : State} (b : BufSel) (m : Memory) (h : errorFieldsWf s) :
    errorFieldsWf (setRam s b m) := by
  cases b <;> exact h

theorem errorFieldsWf_stepInvariant : StepInvariant errorFieldsWf where
  hostSide _ _ h := h
  command i e s allowed h := by
    cases e with
    | fail x => exact errorFieldsWf_raiseErr x s
    | nothing | result | build | zeros | load => exact errorFieldsWf_of_clear rfl rfl
    | search p | startFa p | advanceFa p => cases p <;> exact errorFieldsWf_of_clear rfl rfl
  illegal s _ := errorFieldsWf_raiseErr .illegal s
  soft _ _ := errorFieldsWf_of_clear rfl rfl
  powerOn _ _ := errorFieldsWf_of_clear rfl rfl
  fmtWrite _ _ _ h := h
  window b _ _ _ _ _ h := errorFieldsWf_setRam b _ h

/-- Settles O52: ERR and ERRCODE are written together, by completions and resets. -/
theorem stepsKeepErrorFields : Obligations.StepsKeepErrorFields :=
  fun _ _ => errorFieldsWf_stepInvariant.step

/-! ### The tables (R169) -/

theorem tablesWf_of_noneValid {s : State} (h : s.fmtValid = 0#4) : tablesWf s := by
  intro n hn
  rw [isFmtValid, h, BitVec.getLsbD_zero] at hn
  contradiction

theorem tablesWf_buildSlot {s : State} {n : Slot} (legal : fmtLegal s.fmt[n] = true) (h : tablesWf s) :
    tablesWf (buildSlot n s) := by
  intro m hm
  change fmtLegal s.fmt[m] = true ∧ ∀ c < 2 ^ codeWidth s.fmt[m], _ = toB32 (decodeValue s.fmt[m] c)
  by_cases hmn : m = n
  · subst hmn
    exact ⟨legal, fun c hc => by rw [lutWord_buildSlot, if_pos ⟨rfl, hc⟩]⟩
  · have valid : isFmtValid s m = true := by simpa [isFmtValid_buildSlot, hmn] using hm
    obtain ⟨legal', table⟩ := h m valid
    exact ⟨legal', fun c hc => by rw [lutWord_buildSlot, if_neg (fun hc => hmn hc.1), table c hc]⟩

/-- An accepted FMTn write changes the descriptor of a slot that it marks as not built (R40). -/
theorem tablesWf_fmtWrite {s : State} (n : Slot) (v : Word) (h : tablesWf s) : tablesWf (fmtWrite n v s) := by
  intro m hm
  rw [isFmtValid_fmtWrite, Bool.and_eq_true, decide_eq_true_eq] at hm
  obtain ⟨hmn, valid⟩ := hm
  rw [fmtWrite_fmt, if_neg hmn]
  exact h m valid

theorem tablesWf_setRam {s : State} (b : BufSel) (m : Memory) (h : tablesWf s) : tablesWf (setRam s b m) := by
  cases b <;> exact h

theorem tablesWf_setBufRegs {s : State} (b : BufSel) (v : Buffer) (h : tablesWf s) : tablesWf (setBufRegs s b v) := by
  cases b <;> exact h

theorem tablesWf_stepInvariant : StepInvariant tablesWf where
  hostSide _ _ h := h
  command i e s allowed h := by
    cases e with
    | fail | nothing | result => exact h
    | search p | startFa p | advanceFa p => cases p <;> exact h
    | build n => exact tablesWf_buildSlot allowed.2 h
    | zeros b n => exact tablesWf_setBufRegs b _ (tablesWf_setRam b _ h)
    | load b off n => exact tablesWf_setBufRegs b _ h
  illegal _ h := h
  soft _ _ := tablesWf_of_noneValid rfl
  powerOn _ _ := tablesWf_of_noneValid rfl
  fmtWrite n v _ h := tablesWf_fmtWrite n v h
  window b _ _ _ _ _ h := tablesWf_setRam b _ h

/-- Settles O53: FMT_BUILD fills the table it declares built, and whatever else changes a descriptor or a table leaves
its slot not built. -/
theorem stepsKeepTableAgreement : Obligations.StepsKeepTableAgreement :=
  fun _ _ => tablesWf_stepInvariant.step

/-! ### The iterator (R195) -/

theorem iteratorWf_of_inactive {s : State} (h : s.faActive = false) : iteratorWf s := by
  intro active
  rw [h] at active
  contradiction

theorem iteratorWf_setRam {s : State} (b : BufSel) (m : Memory) (h : iteratorWf s) : iteratorWf (setRam s b m) := by
  cases b <;> exact h

theorem iteratorWf_stepInvariant : StepInvariant iteratorWf where
  hostSide _ _ h := h
  command i e s allowed h := by
    cases e with
    | fail | nothing | result | build => exact h
    | search p => cases p <;> exact h
    | zeros b n => exact iteratorWf_of_inactive rfl
    | load b off n => exact iteratorWf_of_inactive rfl
    | startFa p en ba =>
      obtain ⟨-, needle, inside⟩ := allowed
      cases p with
      | none => exact iteratorWf_of_inactive rfl
      | some p => exact fun _ => ⟨Nat.one_le_iff_ne_zero.mpr needle, (Nat.mod_le en _).trans inside⟩
    | advanceFa p en ba =>
      obtain ⟨-, active⟩ := allowed
      cases p with
      | none => exact iteratorWf_of_inactive rfl
      | some p => exact fun _ => h active
  illegal _ h := h
  soft _ _ := iteratorWf_of_inactive rfl
  powerOn _ _ := iteratorWf_of_inactive rfl
  fmtWrite _ _ _ h := h
  window b _ _ _ _ _ h := iteratorWf_setRam b _ h

/-- Settles O54: ZEROS and LOAD, which could move the haystack's end or empty the needle, deactivate the iterator. -/
theorem stepsKeepIteratorInvariant : Obligations.StepsKeepIteratorInvariant :=
  fun _ _ => iteratorWf_stepInvariant.step

/-! ### The parameters (R45) -/

theorem params_stepInvariant (p : Params) : StepInvariant (fun s => s.params = p) where
  hostSide _ _ h := h
  command _ e s _ h := by
    obtain ⟨same, -⟩ := e.apply_sameHostRegisters s
    exact same.trans h
  illegal _ h := h
  soft _ h := h
  powerOn _ h := h
  fmtWrite _ _ _ h := h
  window b _ _ _ _ _ h := (setRam_params _ b _).trans h

/-- Settles O55. -/
theorem stepsKeepParameters : Obligations.StepsKeepParameters :=
  fun s _ => (params_stepInvariant s.params).step rfl

/-! ### Right after reset (R46, R236) -/

theorem params_wf_config : Config.params.wf = true := by
  have bound := Config.capBytesLessOne.isLt
  rw [Params.wf_iff]
  exact ⟨Nat.le_add_left .., bound, Nat.mul_mod_right ..⟩

/-- Settles O49: the registers are at their reset values, and the opaque parameters are legal by construction. -/
theorem resetMeetsInvariants : Obligations.ResetMeetsInvariants :=
  ⟨params_wf_config, ⟨bufferWf_empty _, bufferWf_empty _⟩, ⟨⟨rfl, rfl⟩, rfl, rfl⟩, errorFieldsWf_of_clear rfl rfl,
    tablesWf_of_noneValid rfl, iteratorWf_of_inactive rfl⟩

theorem zeroFormats (n : Slot) : (#v[0#16, 0#16, 0#16, 0#16] : Vector (BitVec 16) 4)[n] = 0#16 := by
  fin_cases n <;> rfl

theorem statusWord_softReset (s : State) : statusWord (softReset s) = 0#32 := by
  rw [statusWord, softReset_lastOp, softReset_errCode, softReset_fmtValid, softReset_ovr, softReset_found,
    softReset_err, softReset_busy]
  rfl

theorem faCtlWord_softReset (s : State) : faCtlWord (softReset s) = 0#32 := by
  rw [faCtlWord, softReset_faActive, softReset_faBa]
  rfl

/-- Settles O48: a power-on reset writes the registers as a soft reset does, and both states hold those values. -/
theorem powerOnGivesResetValues : Obligations.PowerOnGivesResetValues := by
  refine fun s rest => ⟨powerOnReset { s with inputs := rest }, rfl, fun u hu => ?_⟩
  rcases List.mem_pair.mp hu with rfl | rfl
  · exact ⟨rfl, rfl, rfl, rfl, rfl, rfl, rfl, rfl, rfl, rfl, rfl, zeroFormats, rfl⟩
  · exact ⟨statusWord_softReset s, rfl, rfl, rfl, rfl, rfl, rfl, rfl, rfl, rfl, faCtlWord_softReset s, zeroFormats, rfl⟩

end Sys2Proof.Machine
end

section
/-! PROOFS. The host's accesses: what every register reads as, window reads, accesses the map rejects or the aperture does
not hold, and what reads leave unchanged. -/

namespace Sys2Proof.Machine

open Sys2Proof.Rules

/-! ### The registers (R22 to R25, R32 to R36, R39, R40, R42) -/

/-- Settles O35: the write is the register's, whatever BUSY is. -/
theorem argWritesAreAlwaysAccepted : Obligations.ArgWritesAreAlwaysAccepted := fun s v =>
  ⟨writes_reg s v (by decide) (by decide), reads_reg s (by decide) (by decide),
   writes_reg s v (by decide) (by decide), reads_reg s (by decide) (by decide),
   writes_reg s v (by decide) (by decide), reads_reg s (by decide) (by decide)⟩

theorem reads_of_eq {s : State} {a : Nat} {v : Word} (ha : a < 0x1000) (h4 : a % 4 = 0) (hv : regRead s (regAt a) = v) :
    reads s a v :=
  hv ▸ reads_reg s ha h4

theorem toNat_append_eq_add {m n : Nat} (x : BitVec m) (y : BitVec n) : (x ++ y).toNat = x.toNat * 2 ^ n + y.toNat := by
  rw [BitVec.toNat_append, ← Nat.shiftLeft_add_eq_or_of_lt y.isLt, Nat.shiftLeft_eq]

theorem cfgWord_eq (p : Params) : cfgWord p = if p.nativeLe then 0x1041#32 else 0x1040#32 := by
  rw [cfgWord]
  cases p.nativeLe <;> rfl

theorem statusWord_eq (s : State) : statusWord s =
    BitVec.ofNat 32 (s.busy.toNat + 2 * s.err.toNat + 4 * s.found.toNat + 8 * s.ovr.toNat +
      2 ^ 4 * s.fmtValid.toNat + 2 ^ 8 * s.errCode.toNat + 2 ^ 16 * s.lastOp.toNat) := by
  have fields : (statusWord s).toNat = s.busy.toNat + 2 * s.err.toNat + 4 * s.found.toNat + 8 * s.ovr.toNat +
      2 ^ 4 * s.fmtValid.toNat + 2 ^ 8 * s.errCode.toNat + 2 ^ 16 * s.lastOp.toNat := by
    simp only [statusWord, bitOf, toNat_append_eq_add, BitVec.toNat_ofNat, BitVec.toNat_ofBool]
    omega
  rw [← fields, BitVec.ofNat_toNat, BitVec.setWidth_eq]

theorem faCtlWord_eq (s : State) : faCtlWord s = BitVec.ofNat 32 (s.faBa.toNat + 2 * s.faActive.toNat) := by
  rw [faCtlWord]
  cases s.faBa <;> cases s.faActive <;> rfl

theorem extractLsb'_eq_ofNat_div (x : Result) (k : Nat) :
    x.extractLsb' (32 * k) 32 = BitVec.ofNat 32 (x.toNat / 2 ^ (32 * k)) := by
  apply BitVec.eq_of_toNat_eq
  rw [BitVec.extractLsb'_toNat, BitVec.toNat_ofNat, Nat.shiftRight_eq_div_pow]

theorem regRead_res (s : State) {k : Nat} (hk : k < 4) :
    regRead s (regAt (0x030 + 4 * k)) = s.res.extractLsb' (32 * k) 32 := by
  interval_cases k <;> rfl

/-- The offsets below 0x1000 that name no register (R42, R70). -/
theorem regAt_eq_reserved {a : Nat}
    (h : a ∈ [0x024, 0x028, 0x02C, 0x04C, 0x05C, 0x06C, 0x070, 0x074, 0x078, 0x07C] ∨ 0x08C < a) :
    regAt a = .reserved := by
  unfold regAt
  split <;> simp at h ⊢

/-- Settles O38: the register at each offset, and its fields as numbers. -/
theorem registerReadsShowFields : Obligations.RegisterReadsShowFields := by
  intro s
  have zext : ∀ {n : Nat} (x : BitVec n), x.setWidth 32 = BitVec.ofNat 32 x.toNat := fun x => (BitVec.ofNat_toNat 32 x).symm
  refine ⟨reads_reg s (by decide) (by decide), reads_of_eq (by decide) (by decide) (cfgWord_eq s.params),
    reads_reg s (by decide) (by decide), reads_of_eq (by decide) (by decide) (statusWord_eq s),
    reads_reg s (by decide) (by decide), reads_reg s (by decide) (by decide), reads_reg s (by decide) (by decide),
    reads_reg s (by decide) (by decide), reads_reg s (by decide) (by decide), fun k hk => ?res,
    reads_of_eq (by decide) (by decide) (zext s.buf0.offset), reads_reg s (by decide) (by decide),
    reads_reg s (by decide) (by decide),
    reads_of_eq (by decide) (by decide) (zext s.buf1.offset), reads_reg s (by decide) (by decide),
    reads_reg s (by decide) (by decide), reads_reg s (by decide) (by decide), reads_reg s (by decide) (by decide),
    reads_of_eq (by decide) (by decide) (faCtlWord_eq s), fun n => ?fmt, fun a ha h4 unnamed => ?reserved⟩
  case res => exact reads_of_eq (by omega) (by omega) ((regRead_res s hk).trans (extractLsb'_eq_ofNat_div s.res k))
  case fmt => exact reads_of_eq (by omega) (by omega) (by rw [regAt_fmt]; exact zext s.fmt[n])
  case reserved => exact reads_of_eq ha h4 (by rw [regAt_eq_reserved unnamed]; rfl)

/-! ### Window reads (R66, R248) -/

theorem laneValue_eq_sum (f : Nat → Byte) (n : Nat) :
    laneValue f n = ∑ j ∈ Finset.range n, (f j).toNat * 2 ^ (8 * j) := by
  induction n with
  | zero => rfl
  | succ n ih => rw [laneValue, ih, Finset.sum_range_succ]

theorem zerosPending_iff (s : State) (b : BufSel) :
    zerosPending s b = true ↔ s.busy = true ∧ decode s.pendCmd = .ok (.zeros b) := by
  unfold zerosPending
  split
  next c hc => simp [hc]
  next other =>
    rw [Bool.and_false]
    refine iff_of_false Bool.false_ne_true fun h => other b h.2

theorem hostRead_window_of_settled {s : State} {b : BufSel} (h : zerosPending s b = false) (i : Nat) (w : Width) :
    hostRead (.window b i) w s =
      respond (.data (BitVec.ofNat 32 (∑ j ∈ Finset.range (bytes w), (stor s b (i + j)).toNat * 2 ^ (8 * j)))) s := by
  simp only [hostRead, windowValue, h, Bool.false_eq_true, if_false, laneValue_eq_sum, widthBytes_eq_bytes]

theorem hostRead_window_of_pending {s : State} {b : BufSel} (h : zerosPending s b = true) (i : Nat) (w : Width) :
    hostRead (.window b i) w s = respond (.data (windowValue s b i w)) { s with draws := s.draws + 1 } := by
  simp only [hostRead, h, if_true]

theorem stor_withInputs (s : State) (q : List Input) (b : BufSel) (i : Nat) : stor { s with inputs := q } b i = stor s b i :=
  stor_congr (by cases b <;> rfl) rfl i

/-- A legal window read is that window's read (R64, R66). -/
theorem step_read_window (s : State) (b : BufSel) {i : Nat} {w : Width} (rest : List Input) (wf : s.params.wf = true)
    (aligned : i % bytes w = 0) (fits : i + bytes w ≤ s.params.capBytes) :
    step (withAccess s (.read (s.params.base + (win b + i)) w) rest) =
      .next (hostRead (.window b i) w { s with inputs := rest }) := by
  rw [step_read s w rest (win_add_lt_aperture wf fits)]
  simp only [readAt, targetOf_win_add wf aligned fits]

/-- Settles O41, by whether a ZEROS of that buffer is pending. -/
theorem windowReadReturnsStoredBytes : Obligations.WindowReadReturnsStoredBytes := by
  intro s b i w rest wf aligned fits
  rw [step_read_window s b rest wf aligned fits]
  refine ⟨fun settled => ?_, fun busy hd => ⟨windowValue { s with inputs := rest } b i w, ?_⟩⟩
  · have notPending : zerosPending { s with inputs := rest } b = false :=
      Bool.eq_false_iff.mpr (mt (zerosPending_iff _ b).mp settled)
    rw [hostRead_window_of_settled notPending]
    simp only [stor_withInputs]
    rfl
  · have pending : zerosPending { s with inputs := rest } b = true := (zerosPending_iff _ b).mpr ⟨busy, hd⟩
    rw [hostRead_window_of_pending pending]
    rfl

/-! ### Accesses the map rejects (R65 to R68) -/

theorem bytes_eq_four_iff (w : Width) : bytes w = 4 ↔ w = .word := by cases w <;> decide

theorem targetOf_eq_none_of_rejected {p : Params} {a : Nat} {w : Width} (h : rejected p a (bytes w)) :
    targetOf p a w = none := by
  have first : winBase .buf0 = 0x1000000 := rfl
  have second : winBase .buf1 = 0x2000000 := rfl
  have illegal : ∀ i, ¬ (i % bytes w = 0 ∧ i + bytes w ≤ p.capBytes) → ¬ windowLegal p i (widthBytes w) = true := by
    intro i hi
    rwa [windowLegal_iff, widthBytes_eq_bytes]
  rw [targetOf, first, second]
  rcases h with ⟨below, bad⟩ | ⟨above, below⟩ | ⟨above, below, bad⟩ | ⟨above, below, bad⟩ | above
  · rw [if_pos below, if_neg (by rwa [← bytes_eq_four_iff])]
  · rw [if_neg (by omega), if_pos below]
  · rw [if_neg (by omega), if_neg (by omega), if_pos below, if_neg (illegal _ bad)]
  · rw [if_neg (by omega), if_neg (by omega), if_neg (by omega), if_pos below, if_neg (illegal _ bad)]
  · rw [if_neg (by omega), if_neg (by omega), if_neg (by omega), if_neg (by omega)]

/-- A register write leaves the waiting inputs and the host's fault alone. -/
theorem regWrite_inputs_hostFault (r : Reg) (v : Word) (s : State) :
    (regWrite r v s).inputs = s.inputs ∧ (regWrite r v s).hostFault = s.hostFault := by
  rcases regWrite_cases r v s with ⟨-, e⟩ | ⟨-, -, e⟩ | ⟨-, -, e⟩ | ⟨-, e⟩ | ⟨-, e⟩ | ⟨-, e⟩ | ⟨n, -, -, e⟩ | e <;> rw [e]
  case inl => rcases ctrlWrite_cases v s with e | e | e <;> rw [e] <;> exact ⟨rfl, rfl⟩
  all_goals exact ⟨rfl, rfl⟩

theorem windowWrite_inputs_hostFault (b : BufSel) (i : Nat) (w : Width) (v : Word) (s : State) :
    (windowWrite b i w v s).inputs = s.inputs ∧ (windowWrite b i w v s).hostFault = s.hostFault := by
  rcases windowWrite_cases b i w v s with ⟨-, e⟩ | ⟨-, e⟩ <;> rw [e]
  · exact ⟨rfl, rfl⟩
  · exact ⟨setRam_inputs .., setRam_hostFault ..⟩

/-- The engine's turn leaves BUSY = 0; it keeps the waiting inputs and the host's fault. -/
theorem engineStep_completes (s : State) :
    ∃ t, engineStep s = .next t ∧ t.busy = false ∧ t.inputs = s.inputs ∧ t.hostFault = s.hostFault := by
  rcases engineStep_cases s with ⟨idle, h⟩ | ⟨-, -, -, h⟩ | ⟨-, i, -, h⟩
  · exact ⟨s, h, idle, rfl, rfl⟩
  · exact ⟨_, h, rfl, rfl, rfl⟩
  · obtain ⟨e, -, he⟩ := exec_effect i s
    obtain ⟨-, -, -, -, -, -, -, -, -, -, -, -, -, hostFault, -, inputs⟩ := e.apply_sameHostRegisters s
    exact ⟨_, h.trans he, (e.apply_completes s).1, inputs, hostFault⟩

theorem readAt_inputs_hostFault (a : Nat) (w : Width) (s : State) :
    (readAt a w s).inputs = s.inputs ∧ (s.hostFault = true → (readAt a w s).hostFault = true) := by
  rcases readAt_cases a w s with ⟨-, e⟩ | ⟨v, e⟩ | ⟨v, b, i, -, -, e⟩ <;> rw [e]
  · exact ⟨rfl, fun _ => rfl⟩
  · exact ⟨rfl, id⟩
  · exact ⟨rfl, id⟩

theorem writeAt_inputs_hostFault (a : Nat) (w : Width) (v : Word) (s : State) :
    (writeAt a w v s).inputs = s.inputs ∧ (s.hostFault = true → (writeAt a w v s).hostFault = true) := by
  rcases writeAt_cases a w v s with ⟨-, e⟩ | ⟨r, -, e⟩ | ⟨b, i, -, e⟩ <;> rw [e]
  · exact ⟨rfl, fun _ => rfl⟩
  · obtain ⟨inputs, hostFault⟩ := regWrite_inputs_hostFault r v s
    exact ⟨inputs, hostFault.trans⟩
  · obtain ⟨inputs, hostFault⟩ := windowWrite_inputs_hostFault b i w v s
    exact ⟨inputs, hostFault.trans⟩

/-! ### The aperture (R60) -/

theorem apertureOffset_eq_none_iff (p : Params) (addr : Nat) :
    apertureOffset p addr = none ↔ addr < p.base ∨ p.base + 2 ^ 26 ≤ addr := by
  rw [apertureOffset, ite_eq_right_iff]
  simp only [reduceCtorEq, imp_false]
  omega

theorem eq_add_of_apertureOffset {p : Params} {addr a : Nat} (h : apertureOffset p addr = some a) :
    addr = p.base + a := by
  rw [apertureOffset] at h
  split at h
  · cases h
    omega
  · cases h

/-- A turn inside the aperture answers a next state; no turn adds or drops a waiting input or clears the host's fault. -/
theorem inputStep_of_inAperture {i : Input} {s : State} (h : inAperture s.params i = true) :
    ∃ t, inputStep i s = .next t ∧ t.inputs = s.inputs ∧ (s.hostFault = true → t.hostFault = true) := by
  cases i with
  | engineTurn =>
    obtain ⟨t, ht, -, inputs, hostFault⟩ := engineStep_completes s
    exact ⟨t, ht, inputs, hostFault.trans⟩
  | powerOn => exact ⟨_, rfl, rfl, id⟩
  | access a =>
    cases a with
    | read addr w =>
      obtain ⟨a, ha⟩ := Option.isSome_iff_exists.mp h
      exact ⟨readAt a w s, by simp only [inputStep, hostStep, ha], readAt_inputs_hostFault a w s⟩
    | write addr w v =>
      obtain ⟨a, ha⟩ := Option.isSome_iff_exists.mp h
      exact ⟨writeAt a w v s, by simp only [inputStep, hostStep, ha], writeAt_inputs_hostFault a w v s⟩

theorem inputStep_of_not_inAperture {i : Input} {s : State} (h : inAperture s.params i = false) :
    inputStep i s = .fault .outsideAperture := by
  cases i with
  | engineTurn | powerOn => cases h
  | access a =>
    cases a with
    | read addr w | write addr w v =>
      have outside := Option.isNone_iff_eq_none.mp (Option.isSome_eq_false_iff.mp h)
      simp only [inputStep, hostStep, outside]

theorem step_of_input {s : State} {i : Input} {rest : List Input} (h : s.inputs = i :: rest) :
    step s = inputStep i { s with inputs := rest } := by
  rw [step, h]

theorem nextIsOutside_iff (s : State) :
    nextIsOutside s ↔ ∃ i rest, s.inputs = i :: rest ∧ inAperture s.params i = false := by
  have outside : ∀ {addr}, (apertureOffset s.params addr).isSome = false ↔
      addr < s.params.base ∨ s.params.base + 2 ^ 26 ≤ addr := by
    intro addr
    rw [Option.isSome_eq_false_iff, Option.isNone_iff_eq_none, apertureOffset_eq_none_iff]
  constructor
  · rintro ⟨addr, w, rest, hq | ⟨v, hq⟩, ha⟩
    · exact ⟨_, rest, hq, outside.mpr ha⟩
    · exact ⟨_, rest, hq, outside.mpr ha⟩
  · rintro ⟨i, rest, hq, hi⟩
    cases i with
    | engineTurn | powerOn => cases hi
    | access a =>
      cases a with
      | read addr w => exact ⟨addr, w, rest, .inl hq, outside.mp hi⟩
      | write addr w v => exact ⟨addr, w, rest, .inr ⟨v, hq⟩, outside.mp hi⟩

theorem step_of_outside {s : State} (h : nextIsOutside s) : step s = .fault .outsideAperture := by
  obtain ⟨i, rest, hq, outside⟩ := (nextIsOutside_iff s).mp h
  exact (step_of_input hq).trans (inputStep_of_not_inAperture (s := { s with inputs := rest }) outside)

/-- Every other step answers a next state, and the host's fault stays recorded. -/
theorem step_of_not_outside {s : State} (h : ¬ nextIsOutside s) :
    ∃ t, step s = .next t ∧ (s.hostFault = true → t.hostFault = true) := by
  cases hq : s.inputs with
  | nil =>
    obtain ⟨t, ht, -, -, hostFault⟩ := engineStep_completes s
    exact ⟨t, (step_of_noInputs hq).trans ht, hostFault.trans⟩
  | cons i rest =>
    have inside : inAperture s.params i = true :=
      Bool.not_eq_false _ ▸ fun outside => h ((nextIsOutside_iff s).mpr ⟨i, rest, hq, outside⟩)
    obtain ⟨t, ht, -, hostFault⟩ := inputStep_of_inAperture (s := { s with inputs := rest }) inside
    exact ⟨t, (step_of_input hq).trans ht, hostFault⟩

/-- Settles O43: a step whose next input is outside stops, and every other step answers a next state. -/
theorem onlyAccessesOutsideApertureStop : Obligations.OnlyAccessesOutsideApertureStop := by
  refine fun s => ⟨⟨fun fault => ?_, step_of_outside⟩, fun inside => ?_⟩
  · by_contra inside
    obtain ⟨t, ht, -⟩ := step_of_not_outside inside
    rw [ht] at fault
    cases fault
  · obtain ⟨t, ht, -⟩ := step_of_not_outside inside
    exact ⟨t, ht⟩

/-- Settles O42: the map gives a rejected access no target, and no step clears the host's fault. -/
theorem rejectedAccessChangesNothing : Obligations.RejectedAccessChangesNothing := by
  refine ⟨fun s a w v rest ha bad => ?_, fun s t fault hstep => ?_⟩
  · have noTarget := targetOf_eq_none_of_rejected bad
    rw [step_read s w rest ha, step_write s w v rest ha]
    simp only [readAt, writeAt, noTarget]
    exact ⟨rfl, rfl⟩
  · by_cases outside : nextIsOutside s
    · rw [step_of_outside outside] at hstep
      cases hstep
    · obtain ⟨u, hu, hostFault⟩ := step_of_not_outside outside
      cases hu.symm.trans hstep
      exact hostFault fault

/-! ### Reads have no side effects (R72) -/

/-- Settles O44, by what a read of the aperture changes. -/
theorem hostReadsHaveNoSideEffects : Obligations.HostReadsHaveNoSideEffects := by
  intro s t addr w rest hstep
  rw [step_of_input (s := withAccess s (.read addr w) rest) rfl] at hstep
  cases ha : apertureOffset s.params addr with
  | none =>
    have outside : inAperture s.params (.access (.read addr w)) = false := congrArg Option.isSome ha
    cases (inputStep_of_not_inAperture (s := { s with inputs := rest }) outside).symm.trans hstep
  | some a =>
    have answer : inputStep (.access (.read addr w)) { s with inputs := rest } =
        .next (readAt a w { s with inputs := rest }) := by
      simp only [inputStep, hostStep, ha]
    cases answer.symm.trans hstep
    rcases readAt_cases a w { s with inputs := rest } with ⟨-, e⟩ | ⟨v, e⟩ | ⟨v, b, i, -, -, e⟩
    all_goals
      rw [e]
      exact ⟨_, rfl⟩

/-! ### The end of the inputs (R252) -/

theorem run_succ_of_next {s t : State} (h : step s = .next t) (k : Nat) :
    Sys2Proof.core.run (k + 1) s = Sys2Proof.core.run k t := by
  have core : Sys2Proof.core.step s = .next t := h
  simp only [Host.Core.run, core]

/-- One step for each waiting input uses the inputs up, and the step after them is the engine's. -/
theorem run_inputs_completes (q : List Input) : ∀ s : State, s.inputs = q →
    (∀ i ∈ q, inAperture s.params i = true) →
    ∃ t, Sys2Proof.core.run (q.length + 1) s = .next t ∧ t.busy = false ∧ t.inputs = [] := by
  induction q with
  | nil =>
    intro s hq _
    obtain ⟨t, ht, idle, inputs, -⟩ := engineStep_completes s
    exact ⟨t, run_succ_of_next ((step_of_noInputs hq).trans ht) 0, idle, inputs.trans hq⟩
  | cons i rest ih =>
    intro s hq inside
    obtain ⟨u, hu, inputs, -⟩ :=
      inputStep_of_inAperture (s := { s with inputs := rest }) (inside i List.mem_cons_self)
    have hstep : step s = .next u := (step_of_input hq).trans hu
    have later : ∀ j ∈ rest, inAperture u.params j = true := fun j hj => by
      rw [stepsKeepParameters s u hstep]
      exact inside j (List.mem_cons_of_mem i hj)
    obtain ⟨t, ht, done⟩ := ih u inputs later
    exact ⟨t, (run_succ_of_next hstep _).trans ht, done⟩

/-- Settles O56, by induction over the waiting inputs. -/
theorem noCommandStaysPending : Obligations.NoCommandStaysPending :=
  fun s => run_inputs_completes s.inputs s rfl

end Sys2Proof.Machine
end

section
/-! PROOFS. What a step does to OVR (R29, R251), and the pending latches while no command is pending (R46, I16). -/

namespace Sys2Proof.Machine

open Sys2Proof.Rules

/-! ### OVR (R29) -/

/-- What a register write does to OVR. -/
theorem regWrite_ovr_cases (r : Reg) (v : Word) (s : State) :
    (regWrite r v s).ovr = s.ovr ∨
    ((r = .cmd ∨ ∃ n, r = .fmt n) ∧ s.busy = true ∧ (regWrite r v s).ovr = true) ∨
    (r = .ctrl ∧ (v.getLsbD 0 = true ∨ v.getLsbD 1 = true) ∧ (regWrite r v s).ovr = false) := by
  rcases regWrite_cases r v s with ⟨hr, e⟩ | ⟨hr, busy, e⟩ | ⟨-, -, e⟩ | ⟨-, e⟩ | ⟨-, e⟩ | ⟨-, e⟩ | ⟨n, -, -, e⟩ | e <;>
    rw [e]
  case inl =>
    cases h0 : v.getLsbD 0 with
    | true => exact .inr (.inr ⟨hr, .inl rfl, by rw [ctrlWrite_of_softReset h0]; rfl⟩)
    | false =>
      cases h1 : v.getLsbD 1 with
      | true => exact .inr (.inr ⟨hr, .inr rfl, by rw [ctrlWrite_of_clrOvr h0 h1]⟩)
      | false => exact .inl (by rw [ctrlWrite_of_neither h0 h1])
  case inr.inl => exact .inr (.inl ⟨hr, busy, rfl⟩)
  all_goals exact .inl rfl

theorem windowWrite_ovr_cases (b : BufSel) (i : Nat) (w : Width) (v : Word) (s : State) :
    (windowWrite b i w v s).ovr = s.ovr ∨ (s.busy = true ∧ (windowWrite b i w v s).ovr = true) := by
  rcases windowWrite_cases b i w v s with ⟨busy, e⟩ | ⟨-, e⟩ <;> rw [e]
  · exact .inr ⟨busy, rfl⟩
  · exact .inl (setRam_ovr ..)

theorem readAt_ovr (a : Nat) (w : Width) (s : State) : (readAt a w s).ovr = s.ovr := by
  rcases readAt_cases a w s with ⟨-, e⟩ | ⟨v, e⟩ | ⟨v, b, i, -, -, e⟩ <;> rw [e] <;> rfl

/-- A word access at a register offset reaches that offset's register only (R65, R70). -/
theorem eq_of_targetOf_reg {p : Params} {a : Nat} {w : Width} {r : Reg} (h : targetOf p a w = some (.reg r)) :
    w = .word ∧ r = regAt a := by
  unfold targetOf at h
  split at h
  · split at h
    next legal =>
      cases h
      exact ⟨legal.1, rfl⟩
    · cases h
  all_goals
    repeat' split at h
    all_goals cases h

theorem eq_of_regAt_ctrl {a : Nat} (h : regAt a = .ctrl) : a = 0x010 := by
  unfold regAt at h
  split at h <;> simp at h ⊢

/-- The next input is a write that may be dropped, or one that clears OVR. -/
abbrev nextMayBeDropped (s : State) : Prop :=
  ∃ a rest, s.inputs = .access a :: rest ∧ mayBeDropped s.params a = true

/-- The next input is a power-on reset, or a CTRL write with CLR_OVR or SOFT_RESET. -/
abbrev nextClearsOvr (s : State) : Prop :=
  (∃ rest, s.inputs = .powerOn :: rest) ∨
  ∃ v rest, s.inputs = .access (.write (s.params.base + 0x010) .word v) :: rest ∧
    (v.getLsbD 0 = true ∨ v.getLsbD 1 = true)

/-- What a step does to OVR: it is set only by a write that BUSY drops, and cleared only by CTRL or a reset. -/
theorem step_ovr_cases {s t : State} (hstep : step s = .next t) :
    t.ovr = s.ovr ∨ (s.busy = true ∧ nextMayBeDropped s ∧ t.ovr = true) ∨ (nextClearsOvr s ∧ t.ovr = false) := by
  have engine : ∀ {u}, engineState s u → u.ovr = s.ovr := by
    rintro u (⟨-, rfl⟩ | ⟨rest, -, rfl⟩) <;> rfl
  rcases step_cases hstep with ⟨u, hu, -, rfl⟩ | ⟨u, -, hu, -, -, rfl⟩ | ⟨u, i, hu, -, -, exec⟩ | ⟨rest, hq, rfl⟩ |
    ⟨addr, w, rest, a, hq, -, rfl⟩ | ⟨addr, w, v, rest, a, hq, ha, rfl⟩
  · exact .inl (engine hu)
  · exact .inl ((raiseErr_ovr ..).trans (engine hu))
  · obtain ⟨-, -, -, -, -, ovr, -⟩ := commandsKeepHostRegisters i u t exec
    exact .inl (ovr.trans (engine hu))
  · exact .inr (.inr ⟨.inl ⟨rest, hq⟩, rfl⟩)
  · exact .inl (readAt_ovr a w _)
  · rcases writeAt_cases a w v { s with inputs := rest } with ⟨-, e⟩ | ⟨r, target, e⟩ | ⟨b, i, target, e⟩ <;> rw [e]
    · exact .inl rfl
    · rcases regWrite_ovr_cases r v { s with inputs := rest } with ovr | ⟨hr, busy, ovr⟩ | ⟨rfl, bits, ovr⟩
      · exact .inl ovr
      · refine .inr (.inl ⟨busy, ⟨_, rest, hq, ?_⟩, ovr⟩)
        rcases hr with rfl | ⟨n, rfl⟩ <;> simp only [mayBeDropped, ha, target]
      · obtain ⟨rfl, hreg⟩ := eq_of_targetOf_reg target
        rw [eq_add_of_apertureOffset ha, eq_of_regAt_ctrl hreg.symm] at hq
        exact .inr (.inr ⟨.inr ⟨v, rest, hq, bits⟩, ovr⟩)
    · rcases windowWrite_ovr_cases b i w v { s with inputs := rest } with ovr | ⟨busy, ovr⟩
      · exact .inl ovr
      · exact .inr (.inl ⟨busy, ⟨_, rest, hq, by simp only [mayBeDropped, ha, target]⟩, ovr⟩)

/-- The polling protocol keeps every write that may be dropped to BUSY = 0 (R251). -/
theorem not_nextMayBeDropped_of_followsPolling {s : State} (polls : followsPolling s = true) (busy : s.busy = true) :
    ¬ nextMayBeDropped s := by
  rintro ⟨a, rest, hq, drops⟩
  simp [followsPolling, hq, busy, drops] at polls

/-- Settles O45: of the steps that change OVR, those that set it are outside the protocol. -/
theorem pollingHostNeverSetsOvr : Obligations.PollingHostNeverSetsOvr := by
  intro s t clear polls hstep
  rcases step_ovr_cases hstep with same | ⟨busy, drops, -⟩ | ⟨-, cleared⟩
  · exact same.trans clear
  · exact absurd drops (not_nextMayBeDropped_of_followsPolling polls busy)
  · exact cleared

/-- Settles O46: a step that does not keep OVR = 1 is one of those that clear it. -/
theorem ovrStaysUntilCleared : Obligations.OvrStaysUntilCleared := by
  intro s t set hstep clear
  rcases step_ovr_cases hstep with same | ⟨-, -, stays⟩ | ⟨clears, -⟩
  · rw [same, set] at clear
    contradiction
  · rw [stays] at clear
    contradiction
  · exact clears

/-! ### The pending latches of an idle block (R46, I16) -/

/-- t' is t in everything but the pending latches, and in these too once a command is pending. -/
abbrev SameButIdleLatches (t t' : State) : Prop :=
  t' = withPend t t'.pendCmd t'.pendArg0 t'.pendArg1 t'.pendArg2 ∧ (t.busy = true → t' = t)

theorem SameButIdleLatches.refl (t : State) : SameButIdleLatches t t := ⟨rfl, fun _ => rfl⟩

theorem SameButIdleLatches.of_withPend {t : State} (idle : t.busy = false) (c x y z : Word) :
    SameButIdleLatches t (withPend t c x y z) := by
  refine ⟨rfl, fun busy => ?_⟩
  rw [idle] at busy
  contradiction

theorem SameButIdleLatches.respond {t t' : State} (r : Response) (h : SameButIdleLatches t t') :
    SameButIdleLatches (respond r t) (respond r t') := by
  obtain ⟨same, accepted⟩ := h
  exact ⟨congrArg (Machine.respond r) same, fun busy => congrArg (Machine.respond r) (accepted busy)⟩

theorem regRead_withPend (s : State) (c x y z : Word) (r : Reg) : regRead (withPend s c x y z) r = regRead s r := by
  cases r with
  | bufOffset b | bufBitLen b | bufNBytes b => cases b <;> rfl
  | _ => rfl

theorem stor_withPend (s : State) (c x y z : Word) (b : BufSel) (i : Nat) : stor (withPend s c x y z) b i = stor s b i :=
  stor_congr (by cases b <;> rfl) rfl i

section
variable {s : State} (idle : s.busy = false) (c x y z : Word)
include idle

theorem regWrite_withPend (r : Reg) (v : Word) :
    SameButIdleLatches (regWrite r v s) (regWrite r v (withPend s c x y z)) := by
  have kept := SameButIdleLatches.of_withPend idle c x y z
  have idle' : (withPend s c x y z).busy = false := idle
  cases r with
  | ctrl =>
    simp only [regWrite, ctrlWrite]
    cases v.getLsbD 0 <;> cases v.getLsbD 1
    case false.false => exact kept
    case false.true => exact .of_withPend (t := { s with ovr := false }) idle c x y z
    all_goals exact .refl _
  | cmd =>
    rw [regWrite_cmd_of_idle idle, regWrite_cmd_of_idle idle']
    exact .refl _
  | fmt n =>
    rw [regWrite_fmt_of_idle idle, regWrite_fmt_of_idle idle']
    exact .of_withPend (t := fmtWrite n v s) idle c x y z
  | arg0 => exact .of_withPend (t := { s with arg0 := v }) idle c x y z
  | arg1 => exact .of_withPend (t := { s with arg1 := v }) idle c x y z
  | arg2 => exact .of_withPend (t := { s with arg2 := v }) idle c x y z
  | _ => exact kept

theorem windowWrite_withPend (b : BufSel) (i : Nat) (w : Width) (v : Word) :
    SameButIdleLatches (windowWrite b i w v s) (windowWrite b i w v (withPend s c x y z)) := by
  have idle' : (withPend s c x y z).busy = false := idle
  rw [windowWrite_of_idle idle, windowWrite_of_idle idle']
  cases b with
  | buf0 => exact .of_withPend (t := { s with ram0 := memStore s.ram0 i v (bytes w) }) idle c x y z
  | buf1 => exact .of_withPend (t := { s with ram1 := memStore s.ram1 i v (bytes w) }) idle c x y z

theorem zerosPending_of_idle (b : BufSel) : zerosPending s b = false := by
  rw [zerosPending, idle, Bool.false_and]

theorem readAt_withPend (a : Nat) (w : Width) :
    SameButIdleLatches (readAt a w s) (readAt a w (withPend s c x y z)) := by
  have idle' : (withPend s c x y z).busy = false := idle
  have kept := SameButIdleLatches.of_withPend idle c x y z
  have params : (withPend s c x y z).params = s.params := rfl
  rw [readAt, readAt, params]
  cases targetOf s.params a w with
  | none => exact .respond _ (.of_withPend (t := { s with hostFault := true }) idle c x y z)
  | some t =>
    cases t with
    | reg r =>
      simp only [hostRead, regRead_withPend]
      exact kept.respond _
    | window b i =>
      dsimp only
      rw [hostRead_window_of_settled (zerosPending_of_idle idle b), hostRead_window_of_settled (zerosPending_of_idle idle' b)]
      simp only [stor_withPend]
      exact kept.respond _

theorem writeAt_withPend (a : Nat) (w : Width) (v : Word) :
    SameButIdleLatches (writeAt a w v s) (writeAt a w v (withPend s c x y z)) := by
  have params : (withPend s c x y z).params = s.params := rfl
  rw [writeAt, writeAt, params]
  cases targetOf s.params a w with
  | none => exact .respond _ (.of_withPend (t := { s with hostFault := true }) idle c x y z)
  | some t =>
    cases t with
    | reg r => exact (regWrite_withPend idle c x y z r v).respond _
    | window b i => exact (windowWrite_withPend idle c x y z b i w v).respond _

end

/-- The outcomes of the statement: two next states alike but for idle latches, or the same fault. -/
abbrev SameOutcome : Host.Outcome State Fault Refusal → Host.Outcome State Fault Refusal → Prop
  | .next t, .next t' => SameButIdleLatches t t'
  | .fault r, .fault r' => r = r'
  | _, _ => False

theorem engineStep_withPend {s : State} (idle : s.busy = false) (c x y z : Word) :
    SameOutcome (engineStep s) (engineStep (withPend s c x y z)) := by
  have idle' : (withPend s c x y z).busy = false := idle
  rw [engineStep_of_idle idle, engineStep_of_idle idle']
  exact .of_withPend idle c x y z

theorem inputStep_withPend {s : State} (idle : s.busy = false) (c x y z : Word) (i : Input) :
    SameOutcome (inputStep i s) (inputStep i (withPend s c x y z)) := by
  have params : (withPend s c x y z).params = s.params := rfl
  cases i with
  | engineTurn => exact engineStep_withPend idle c x y z
  | powerOn => exact .refl _
  | access a =>
    cases a with
    | read addr w =>
      simp only [inputStep, hostStep, params]
      cases apertureOffset s.params addr with
      | none => exact rfl
      | some a => exact readAt_withPend idle c x y z a w
    | write addr w v =>
      simp only [inputStep, hostStep, params]
      cases apertureOffset s.params addr with
      | none => exact rfl
      | some a => exact writeAt_withPend idle c x y z a w v

/-- Settles O47, by the next input; no turn of an idle block reads the latches. -/
theorem idleLatchesAreInvisible : Obligations.IdleLatchesAreInvisible := by
  intro s c x y z idle
  change SameOutcome (step s) (step (withPend s c x y z))
  cases hq : s.inputs with
  | nil =>
    rw [step_of_noInputs hq, step_of_noInputs (s := withPend s c x y z) hq]
    exact engineStep_withPend idle c x y z
  | cons i rest =>
    rw [step_of_input hq, step_of_input (s := withPend s c x y z) hq]
    exact inputStep_withPend (s := { s with inputs := rest }) idle c x y z i

end Sys2Proof.Machine
end

section
/-! PROOFS. What a command does not read: ARG0 to ARG2, which the acceptance has latched (R34, R75), and storage bits
outside the logical bits of the buffers (R38). In two states alike in everything else a command has the same effect. -/

namespace Sys2Proof.Machine

open Sys2Proof.Rules

/-! ### Bits, fields and matches of two states with the same logical bits -/

/-- t has the logical bits of s. -/
abbrev SameBits (s t : State) : Prop := ∀ b, ∀ p < len s b, bitAt t b p = bitAt s b p

section
variable {s t : State} (bits : SameBits s t)
include bits

theorem fieldAt_of_sameBits {b : BufSel} {p n : Nat} (inside : p + n ≤ len s b) : fieldAt t b p n = fieldAt s b p n :=
  Finset.sum_congr rfl fun k hk => by
    have hkn := Finset.mem_range.mp hk
    rw [bits b (p + k) (by omega)]

theorem leFieldAt_of_sameBits {p n : Nat} (inside : p + n ≤ len s .buf0) : leFieldAt t p n = leFieldAt s p n :=
  Finset.sum_congr rfl fun k hk => by
    have hkn := Finset.mem_range.mp hk
    rw [fieldAt_of_sameBits bits (by omega)]

theorem matchList_of_sameBits (needle : len t .buf1 = len s .buf1) {st en : Nat} (inside : en ≤ len s .buf0) (ba : Bool) :
    matchList t st en ba = matchList s st en ba := by
  refine List.Pairwise.eq_of_mem_iff (matchList_pairwise ..) (matchList_pairwise ..) fun p => ?_
  rw [mem_matchList_iff_mem_matchSet, mem_matchList_iff_mem_matchSet]
  simp only [matchSet, Set.mem_ofPred_eq, needle]
  refine and_congr_right fun _ => and_congr_right fun hp => and_congr_right fun _ => forall₂_congr fun k hk => ?_
  rw [bits .buf0 (p + k) (by omega), bits .buf1 k hk]

end

/-- A field operand inside the buffer starts a native field inside it (R111). -/
theorem fieldStart_add_le (l : Numbering) (s : State) {a n : Nat} (inside : a + n ≤ len s .buf0) :
    fieldStart l s a n + n ≤ len s .buf0 := by
  rw [fieldStart]
  split <;> omega

/-! ### Two states a command cannot tell apart -/

/-- s with other values in ARG0 to ARG2 and other storage. -/
def withUnread (s : State) (x y z : Word) (m0 m1 : Memory) : State :=
  { s with arg0 := x, arg1 := y, arg2 := z, ram0 := m0, ram1 := m1 }

/-- t is s but for ARG0 to ARG2 and storage outside the logical bits; an active iterator finds the same matches. -/
structure SameReads (s t : State) : Prop where
  eq : ∃ x y z m0 m1, t = withUnread s x y z m0 m1
  bits : SameBits s t
  found : s.faActive = true →
    matchList t s.faNext.toNat s.faEnd.toNat s.faBa = matchList s s.faNext.toNat s.faEnd.toNat s.faBa

/-- The command has one effect, the same in both states. -/
abbrev SameEffect (i : Instr) (s t : State) : Prop :=
  ∃ e : Effect, exec i s = .next (e.apply s) ∧ exec i t = .next (e.apply t)

/-- A command that completes with the same result in both states. -/
theorem sameEffect_of_result {i : Instr} {s t : State} {r : Result} (h : exec i s = .next (succeededWith r s))
    (h' : exec i t = .next (succeededWith r t)) : SameEffect i s t :=
  ⟨.result r, h, h'⟩

theorem exec_findallNext_of_active {s : State} (active : s.faActive = true) :
    exec .findallNext s = .next (completeSearch (matchList s s.faNext.toNat s.faEnd.toNat s.faBa).head?
      (advanceFa (matchList s s.faNext.toNat s.faEnd.toNat s.faBa).head? s.faEnd.toNat s.faBa s)) := by
  rw [exec, execFindallNext, if_pos active]

section
variable {s t : State} (same : SameReads s t)
include same

theorem sameEffect_zeros (b : BufSel) : SameEffect (.zeros b) s t := by
  obtain ⟨⟨x, y, z, m0, m1, rfl⟩, -, -⟩ := same
  by_cases h : 8 * s.params.capBytes < a0 s
  · exact ⟨.fail .creation, exec_zeros_of_gt b h, exec_zeros_of_gt b h⟩
  · have fits := Nat.not_lt.mp h
    exact ⟨.zeros b (a0 s), exec_zeros_of_le b fits, exec_zeros_of_le b fits⟩

theorem sameEffect_load (b : BufSel) : SameEffect (.load b) s t := by
  obtain ⟨⟨x, y, z, m0, m1, rfl⟩, -, -⟩ := same
  by_cases h : s.params.capBytes < a2 s ∨ 8 ≤ a0 s ∨ 8 * a2 s < a0 s + a1 s
  · exact ⟨.fail .creation, exec_load_of_bad b h, exec_load_of_bad b h⟩
  · have cap : a2 s ≤ s.params.capBytes := by omega
    have hoff : a0 s < 8 := by omega
    have fits : a0 s + a1 s ≤ 8 * a2 s := by omega
    refine ⟨.load b (a0 s) (a1 s), (exec_load_of_fits b cap hoff fits).trans ?_,
      (exec_load_of_fits (s := withUnread s x y z m0 m1) b cap hoff fits).trans ?_⟩ <;> cases b <;> rfl

theorem sameEffect_getBit (l : Numbering) : SameEffect (.getBit l) s t := by
  obtain ⟨⟨x, y, z, m0, m1, rfl⟩, bits, -⟩ := same
  by_cases h : len s .buf0 ≤ a0 s
  · exact ⟨.fail .index, exec_getBit_of_past l h, exec_getBit_of_past l h⟩
  · have inside := Nat.not_le.mp h
    have position : (if l = .lsb0 then len s .buf0 - a0 s - 1 else a0 s) < len s .buf0 := by split <;> omega
    refine sameEffect_of_result (exec_getBit_of_inside l inside) ?_
    rw [← bits .buf0 _ position]
    exact exec_getBit_of_inside l inside

theorem sameEffect_getByteRange (l : Numbering) : SameEffect (.getByteRange l) s t := by
  obtain ⟨⟨x, y, z, m0, m1, rfl⟩, -, -⟩ := same
  by_cases h : a1 s < a0 s ∨ len s .buf0 < a1 s
  · exact ⟨.fail .index, exec_getByteRange_of_bad l h, exec_getByteRange_of_bad l h⟩
  · have hae : a0 s ≤ a1 s := by omega
    have hen : a1 s ≤ len s .buf0 := by omega
    exact sameEffect_of_result (exec_getByteRange_of_inside l hae hen rfl)
      (exec_getByteRange_of_inside (s := withUnread s x y z m0 m1) l hae hen rfl)

theorem sameEffect_extract (l : Numbering) (pad : Bool) : SameEffect (.extract l pad) s t := by
  obtain ⟨⟨x, y, z, m0, m1, rfl⟩, bits, -⟩ := same
  by_cases long : 128 < a1 s
  · exact ⟨.fail .interpret, exec_extract_of_long l pad long, exec_extract_of_long l pad long⟩
  have short := Nat.not_lt.mp long
  by_cases past : len s .buf0 < a0 s + a1 s
  · exact ⟨.fail .index, exec_extract_of_past l pad short past, exec_extract_of_past l pad short past⟩
  · have inside := Nat.not_lt.mp past
    refine sameEffect_of_result (exec_extract_of_inside l pad short inside) ?_
    rw [← fieldAt_of_sameBits bits (fieldStart_add_le l s inside)]
    exact exec_extract_of_inside l pad short inside

theorem intField_of_sameReads (e : Endian) (l : Numbering) : intField e l t = intField e l s := by
  obtain ⟨⟨x, y, z, m0, m1, rfl⟩, bits, -⟩ := same
  by_cases badLength : a1 s = 0 ∨ 128 < a1 s
  · rw [intField_of_badLength badLength]
    exact intField_of_badLength badLength
  have pos : 1 ≤ a1 s := by omega
  have short : a1 s ≤ 128 := by omega
  by_cases unaligned : e ≠ .be ∧ a1 s % 8 ≠ 0
  · obtain ⟨he, odd⟩ := unaligned
    rw [intField_of_unaligned pos short he odd]
    exact intField_of_unaligned pos short he odd
  have aligned : e = .be ∨ a1 s % 8 = 0 := by tauto
  by_cases past : len s .buf0 < a0 s + a1 s
  · rw [intField_of_past pos short aligned past]
    exact intField_of_past pos short aligned past
  · have inside := Nat.not_lt.mp past
    have start := fieldStart_add_le l s inside
    rw [intField_of_inside pos short aligned inside, fieldIn, ← fieldAt_of_sameBits bits start,
      ← leFieldAt_of_sameBits bits start]
    exact intField_of_inside pos short aligned inside

theorem sameEffect_readUint (e : Endian) (l : Numbering) : SameEffect (readUintInstr e l) s t := by
  have value := intField_of_sameReads same e l
  cases h : intField e l s with
  | error x => exact ⟨.fail x, exec_readUint_of_error h, exec_readUint_of_error (value.trans h)⟩
  | ok u => exact sameEffect_of_result (exec_readUint_of_ok h) (exec_readUint_of_ok (value.trans h))

theorem sameEffect_readInt (e : Endian) (l : Numbering) : SameEffect (readIntInstr e l) s t := by
  have value := intField_of_sameReads same e l
  have length : a1 t = a1 s := by
    obtain ⟨⟨x, y, z, m0, m1, rfl⟩, -, -⟩ := same
    rfl
  cases h : intField e l s with
  | error x => exact ⟨.fail x, exec_readInt_of_error h, exec_readInt_of_error (value.trans h)⟩
  | ok u => exact sameEffect_of_result (exec_readInt_of_ok h) (length ▸ exec_readInt_of_ok (value.trans h))

theorem sameEffect_fmtBuild (n : Slot) : SameEffect (.fmtBuild n) s t := by
  obtain ⟨⟨x, y, z, m0, m1, rfl⟩, -, -⟩ := same
  by_cases h : legal s.fmt[n]
  · exact ⟨.build n, exec_fmtBuild_of_legal h, exec_fmtBuild_of_legal h⟩
  · exact ⟨.fail .interpret, exec_fmtBuild_of_illegal h, exec_fmtBuild_of_illegal h⟩

theorem sameEffect_nfDecode (l : Numbering) (n : Slot) : SameEffect (.nfDecode l n) s t := by
  obtain ⟨⟨x, y, z, m0, m1, rfl⟩, bits, -⟩ := same
  cases built : isFmtValid s n with
  | false => exact ⟨.fail .interpret, exec_nfDecode_of_unbuilt l built, exec_nfDecode_of_unbuilt l built⟩
  | true =>
    by_cases past : len s .buf0 < a0 s + width s.fmt[n]
    · exact ⟨.fail .index, exec_nfDecode_of_past l built past, exec_nfDecode_of_past l built past⟩
    · have inside := Nat.not_lt.mp past
      refine sameEffect_of_result (exec_nfDecode_of_inside l built inside) ?_
      rw [← fieldAt_of_sameBits bits (fieldStart_add_le l s inside)]
      exact exec_nfDecode_of_inside l built inside

theorem sameEffect_nfLookup (n : Slot) : SameEffect (.nfLookup n) s t := by
  obtain ⟨⟨x, y, z, m0, m1, rfl⟩, -, -⟩ := same
  cases built : isFmtValid s n with
  | false => exact ⟨.fail .interpret, exec_nfLookup_of_unbuilt built, exec_nfLookup_of_unbuilt built⟩
  | true =>
    by_cases outside : 2 ^ width s.fmt[n] ≤ a0 s
    · exact ⟨.fail .index, exec_nfLookup_of_outside built outside, exec_nfLookup_of_outside built outside⟩
    · have inside := Nat.not_le.mp outside
      exact sameEffect_of_result (exec_nfLookup_of_inside built inside) (exec_nfLookup_of_inside built inside)

/-- FIND, RFIND and FINDALL_FIRST search a range that the checks keep inside the haystack. -/
theorem sameEffect_search {i : Instr} (search : isCheckedSearch i = true) : SameEffect i s t := by
  obtain ⟨⟨x, y, z, m0, m1, rfl⟩, bits, -⟩ := same
  by_cases emptyNeedle : len s .buf1 = 0
  · exact ⟨.fail .value, exec_search_of_emptyNeedle search emptyNeedle, exec_search_of_emptyNeedle search emptyNeedle⟩
  by_cases badRange : a1 s < a0 s ∨ len s .buf0 < a1 s
  · exact ⟨.fail .index, exec_search_of_badRange search emptyNeedle badRange,
      exec_search_of_badRange search emptyNeedle badRange⟩
  have hae : a0 s ≤ a1 s := by omega
  have hen : a1 s ≤ len s .buf0 := by omega
  have found := fun ba => matchList_of_sameBits (st := a0 s) bits rfl hen ba
  have runs := exec_search_of_inside search emptyNeedle hae hen
  have runs' := exec_search_of_inside (s := withUnread s x y z m0 m1) search emptyNeedle hae hen
  cases i <;> simp only [isCheckedSearch, Bool.false_eq_true] at search
  case find ba => exact ⟨.search (matchList s (a0 s) (a1 s) ba).head?, runs, found ba ▸ runs'⟩
  case rfind ba => exact ⟨.search (matchList s (a0 s) (a1 s) ba).getLast?, runs, found ba ▸ runs'⟩
  case findallFirst ba => exact ⟨.startFa (matchList s (a0 s) (a1 s) ba).head? (a1 s) ba, runs, found ba ▸ runs'⟩

theorem sameEffect_findallNext : SameEffect .findallNext s t := by
  obtain ⟨⟨x, y, z, m0, m1, rfl⟩, -, found⟩ := same
  cases active : s.faActive with
  | false => exact ⟨.search none, exec_findallNext_of_inactive active, exec_findallNext_of_inactive active⟩
  | true =>
    refine ⟨.advanceFa (matchList s s.faNext.toNat s.faEnd.toNat s.faBa).head? s.faEnd.toNat s.faBa,
      exec_findallNext_of_active active, ?_⟩
    rw [← found active]
    exact exec_findallNext_of_active active

/-- Every command has the same effect in two states that it cannot tell apart. -/
theorem sameEffect_of_sameReads (i : Instr) : SameEffect i s t := by
  cases i with
  | nop => exact ⟨.nothing, rfl, rfl⟩
  | zeros b => exact sameEffect_zeros same b
  | load b => exact sameEffect_load same b
  | getBit l => exact sameEffect_getBit same l
  | getByteRange l => exact sameEffect_getByteRange same l
  | extract l pad => exact sameEffect_extract same l pad
  | readUintBe l => exact sameEffect_readUint same .be l
  | readUintLe l => exact sameEffect_readUint same .le l
  | readUintNe l => exact sameEffect_readUint same .ne l
  | readIntBe l => exact sameEffect_readInt same .be l
  | readIntLe l => exact sameEffect_readInt same .le l
  | readIntNe l => exact sameEffect_readInt same .ne l
  | fmtBuild n => exact sameEffect_fmtBuild same n
  | nfDecode l n => exact sameEffect_nfDecode same l n
  | nfLookup n => exact sameEffect_nfLookup same n
  | find ba | rfind ba | findallFirst ba => exact sameEffect_search same rfl
  | findallNext => exact sameEffect_findallNext same

end

/-! ### An effect on two states alike -/

/-- An effect leaves ARG0 to ARG2 as they were. -/
theorem Effect.apply_withArgs (e : Effect) (s : State) (x y z : Word) :
    e.apply { s with arg0 := x, arg1 := y, arg2 := z } = { e.apply s with arg0 := x, arg1 := y, arg2 := z } := by
  cases e with
  | fail | nothing | result | build => rfl
  | zeros b | load b => cases b <;> rfl
  | search p | startFa p | advanceFa p => cases p <;> rfl

/-- An effect writes nothing but storage from storage. -/
theorem Effect.apply_withRams (e : Effect) (s : State) (m0 m1 : Memory) :
    e.apply { s with ram0 := m0, ram1 := m1 } =
      { e.apply s with
        ram0 := (e.apply { s with ram0 := m0, ram1 := m1 }).ram0
        ram1 := (e.apply { s with ram0 := m0, ram1 := m1 }).ram1 } := by
  cases e with
  | fail | nothing | result | build => rfl
  | zeros b | load b => cases b <;> rfl
  | search p | startFa p | advanceFa p => cases p <;> rfl

/-! ### The statements -/

theorem bitAt_withArgs (s : State) (x y z : Word) (b : BufSel) (p : Nat) :
    bitAt { s with arg0 := x, arg1 := y, arg2 := z } b p = bitAt s b p := by
  cases b <;> rfl

theorem sameReads_withArgs (s : State) (x y z : Word) : SameReads s { s with arg0 := x, arg1 := y, arg2 := z } where
  eq := ⟨x, y, z, s.ram0, s.ram1, rfl⟩
  bits b p _ := bitAt_withArgs s x y z b p
  found _ := rfl

/-- Settles O32: ARG0 to ARG2 are neither read nor written by a command. -/
theorem commandsUseLatchedOperands : Obligations.CommandsUseLatchedOperands := by
  intro i s x y z
  obtain ⟨e, he, he'⟩ := sameEffect_of_sameReads (sameReads_withArgs s x y z) i
  exact ⟨e.apply s, he, he'.trans (congrArg _ (e.apply_withArgs s x y z))⟩

theorem sameReads_of_sameLogicalBits {s t : State} (h : sameLogicalBits s t) (iterator : iteratorWf s) :
    SameReads s t := by
  obtain ⟨rams, bits⟩ := h
  have sameBits : SameBits s t := fun b p hp => (bits b p hp).symm
  refine ⟨⟨s.arg0, s.arg1, s.arg2, t.ram0, t.ram1, rams⟩, sameBits, fun active => ?_⟩
  have needle : len t .buf1 = len s .buf1 := by rw [rams]; rfl
  obtain ⟨-, inside⟩ := iterator active
  exact matchList_of_sameBits sameBits needle inside s.faBa

/-- Settles O33: the bits a command reads are logical bits, an active iterator's range included (R195). -/
theorem bitsOutsideBuffersAreInvisible : Obligations.BitsOutsideBuffersAreInvisible := by
  intro i s t h iterator
  obtain ⟨e, he, he'⟩ := sameEffect_of_sameReads (sameReads_of_sameLogicalBits h iterator) i
  refine ⟨e.apply s, e.apply t, he, he', ?_⟩
  obtain ⟨rams, -⟩ := h
  rw [rams]
  exact e.apply_withRams s t.ram0 t.ram1

end Sys2Proof.Machine
end

section
/-! PROOFS. Properties of results: the range of an integer read (R148), and the positions that FINDALL_FIRST and
FINDALL_NEXT report (R197). -/

namespace Sys2Proof.Machine

open Sys2Proof.Rules

/-! ### The range of an integer read (R148) -/

theorem fieldIn_lt (e : Endian) (l : Numbering) (s : State) : fieldIn e l s < 2 ^ a1 s := by
  rw [← intFieldValue_eq_fieldIn, intFieldValue, operand1_eq_a1]
  split
  · exact (leField_lt s _ _).trans_le (Nat.pow_le_pow_right (by decide) (Nat.mul_div_le _ 8))
  · exact field_lt s _ _ _

/-- Settles O15: an n-bit field is an n-bit number, and 128 bits hold it unsigned and signed. -/
theorem integerReadsStayInRange : Obligations.IntegerReadsStayInRange := by
  intro e l s pos short aligned inside
  have read : intField e l s = .ok (fieldIn e l s) := intField_of_inside pos short aligned inside
  have value := fieldIn_lt e l s
  have unsigned : (BitVec.ofNat 128 (fieldIn e l s)).toNat = fieldIn e l s :=
    Nat.mod_eq_of_lt (value.trans_le (Nat.pow_le_pow_right (by decide) short))
  have signedRead : (BitVec.ofInt 128 (signed (fieldIn e l s) (a1 s))).toInt = signed (fieldIn e l s) (a1 s) :=
    toInt_ofInt_signed pos short value
  obtain ⟨lower, upper⟩ := signed_bounds pos value
  exact ⟨_, _, exec_readUint_of_ok read, unsigned.trans_lt value, exec_readInt_of_ok read,
    lower.trans_eq signedRead.symm, signedRead.trans_le (Int.le_sub_one_of_lt upper)⟩

/-! ### The match list past its first match (R190, R194) -/

theorem one_le_stepPast (ba : Bool) : 1 ≤ stepPast ba := by cases ba <;> decide

theorem stepPast_le (ba : Bool) : stepPast ba ≤ 8 := by cases ba <;> decide

/-- In byte-aligned mode two matches are at least 8 apart, so stepping past one skips none. -/
theorem matchList_eq_cons {s : State} {st en : Nat} {ba : Bool} {p : Nat} (h : (matchList s st en ba).head? = some p) :
    matchList s st en ba = p :: matchList s (p + stepPast ba) en ba := by
  obtain ⟨later, hl⟩ := List.head?_eq_some_iff.mp h
  have rising := matchList_pairwise s st en ba
  rw [hl, List.pairwise_cons] at rising
  obtain ⟨above, risingLater⟩ := rising
  have members : ∀ q, q ∈ p :: later ↔ _ := fun q => hl ▸ mem_matchList s st en ba q
  obtain ⟨hst, -, aligned, -⟩ := (members p).mp List.mem_cons_self
  rw [hl]
  congr 1
  refine List.Pairwise.eq_of_mem_iff risingLater (matchList_pairwise ..) fun q => ?_
  rw [mem_matchList]
  constructor
  · intro hq
    obtain ⟨-, hen, aligned', bits⟩ := (members q).mp (List.mem_cons_of_mem p hq)
    have hpq := above q hq
    refine ⟨?_, hen, aligned', bits⟩
    cases ba with
    | false => exact hpq
    | true =>
      have := aligned rfl
      have := aligned' rfl
      simp only [stepPast, if_true]
      omega
  · rintro ⟨hpq, hen, aligned', bits⟩
    have pos := one_le_stepPast ba
    have hq : q ∈ p :: later := (members q).mpr ⟨by omega, hen, aligned', bits⟩
    exact (List.mem_cons.mp hq).resolve_left (by omega)

theorem length_matchList_le (s : State) (st en : Nat) (ba : Bool) : (matchList s st en ba).length ≤ en + 1 - st := by
  rw [matchList]
  exact (List.length_filter_le _ _).trans_eq List.length_range'

theorem le_of_head?_matchList {s : State} {st en : Nat} {ba : Bool} {p : Nat} (h : (matchList s st en ba).head? = some p) :
    p ≤ en := by
  obtain ⟨-, hp, -⟩ := (mem_matchList ..).mp (List.mem_of_head? h)
  omega

/-! ### The reported positions (R197) -/

theorem nextPositions_succ {s t : State} (h : exec .findallNext s = .next t) (k : Nat) :
    nextPositions (k + 1) s = if t.found then t.res.toNat :: nextPositions k t else [] := by
  rw [nextPositions, h]

theorem findallPositions_of_next {ba : Bool} {s t : State} (h : exec (.findallFirst ba) s = .next t) (k : Nat) :
    findallPositions ba k s = if t.found then t.res.toNat :: nextPositions k t else [] := by
  rw [findallPositions, h]

/-- The state a search leaves when the iterator has stepped past a match at p: what FINDALL_NEXT goes on from. -/
def steppedPast (p : Nat) (ba : Bool) (s : State) : State :=
  completeSearch (some p) (advanceFa (some p) s.faEnd.toNat ba s)

section
variable {s : State} {p : Nat} {ba : Bool}

theorem steppedPast_found : (steppedPast p ba s).found = true := rfl

theorem steppedPast_faActive : (steppedPast p ba s).faActive = true := rfl

theorem steppedPast_faEnd : (steppedPast p ba s).faEnd = s.faEnd := rfl

theorem steppedPast_faBa : (steppedPast p ba s).faBa = s.faBa := rfl

theorem toNat_res_steppedPast (h : p < 2 ^ 32) : (steppedPast p ba s).res.toNat = p :=
  Nat.mod_eq_of_lt (h.trans (by decide))

theorem toNat_faNext_steppedPast (h : p + 8 < 2 ^ 32) : (steppedPast p ba s).faNext.toNat = p + stepPast ba :=
  Nat.mod_eq_of_lt ((Nat.add_le_add_left (stepPast_le ba) p).trans_lt h)

theorem matchList_steppedPast (st en : Nat) (ba' : Bool) :
    matchList (steppedPast p ba s) st en ba' = matchList s st en ba' := rfl

end

/-- An active iterator reports the matches of its range that are left, given enough commands. -/
theorem nextPositions_eq_matchList (k : Nat) : ∀ s : State, s.faActive = true → s.faEnd.toNat + 8 < 2 ^ 32 →
    (matchList s s.faNext.toNat s.faEnd.toNat s.faBa).length ≤ k →
    nextPositions k s = matchList s s.faNext.toNat s.faEnd.toNat s.faBa := by
  induction k with
  | zero =>
    intro s _ _ short
    exact (List.eq_nil_of_length_eq_zero (Nat.le_zero.mp short)).symm
  | succ k ih =>
    intro s active noWrap short
    have next := exec_findallNext_of_active active
    cases hp : (matchList s s.faNext.toNat s.faEnd.toNat s.faBa).head? with
    | none =>
      rw [hp] at next
      rw [nextPositions_succ next, List.head?_eq_none_iff.mp hp]
      rfl
    | some p =>
      rw [hp] at next
      have inside := le_of_head?_matchList hp
      have left := matchList_eq_cons hp
      have faNext : (steppedPast p s.faBa s).faNext.toNat = p + stepPast s.faBa := toNat_faNext_steppedPast (by omega)
      have rest := ih (steppedPast p s.faBa s) steppedPast_faActive noWrap
      rw [faNext, steppedPast_faEnd, steppedPast_faBa, matchList_steppedPast] at rest
      rw [left, List.length_cons] at short
      rw [nextPositions_succ (t := steppedPast p s.faBa s) next, steppedPast_found, if_pos rfl,
        toNat_res_steppedPast (by omega), rest (by omega), ← left]

/-- FINDALL_FIRST reports the first match, and the iterator it starts the others. -/
theorem findallPositions_eq_matchList (ba : Bool) {s : State} {k : Nat} (needle : len s .buf1 ≠ 0) (hae : a0 s ≤ a1 s)
    (hen : a1 s ≤ len s .buf0) (noWrap : a1 s + 8 < 2 ^ 32) (enough : a1 s ≤ k) :
    findallPositions ba k s = matchList s (a0 s) (a1 s) ba := by
  have first : exec (.findallFirst ba) s = .next (searched (.findallFirst ba) s) :=
    exec_search_of_inside rfl needle hae hen
  rw [searched, operand0_eq_a0, operand1_eq_a1, ofNat_a1] at first
  cases hp : (matchList s (a0 s) (a1 s) ba).head? with
  | none =>
    rw [hp] at first
    rw [findallPositions_of_next first, List.head?_eq_none_iff.mp hp]
    rfl
  | some p =>
    rw [hp] at first
    have inside := le_of_head?_matchList hp
    have faNext : (steppedPast p ba { s with faEnd := s.pendArg1, faBa := ba }).faNext.toNat = p + stepPast ba :=
      toNat_faNext_steppedPast (by omega)
    have short := length_matchList_le s (p + stepPast ba) (a1 s) ba
    have pos := one_le_stepPast ba
    have rest := nextPositions_eq_matchList k (steppedPast p ba { s with faEnd := s.pendArg1, faBa := ba })
      steppedPast_faActive noWrap
    rw [faNext, steppedPast_faEnd, steppedPast_faBa, matchList_steppedPast] at rest
    rw [findallPositions_of_next (t := steppedPast p ba { s with faEnd := s.pendArg1, faBa := ba }) first,
      steppedPast_found, if_pos rfl, toNat_res_steppedPast (by omega), matchList_eq_cons hp]
    exact congrArg (p :: ·) (rest (short.trans (by omega)))

/-- Settles O27: the positions are the match list, which rises and has the match set's members. -/
theorem findallEnumeratesEveryMatch : Obligations.FindallEnumeratesEveryMatch := by
  intro ba s k wf ⟨_, _, fits, _⟩ needle hae hen enough
  obtain ⟨-, cap, -⟩ := (Params.wf_iff s.params).mp wf
  have length : len s .buf0 ≤ 8 * s.params.capBytes := fits
  rw [findallPositions_eq_matchList ba needle hae hen (by omega) enough]
  exact ⟨matchList_pairwise .., mem_matchList_iff_mem_matchSet s (a0 s) (a1 s) ba⟩

end Sys2Proof.Machine
end

section
/-! PROOFS. The narrow-float decoder as numbers (R162 to R165): binary32 words by their fields, the exactness of the
conversion to binary32, and the special words of the carve-out table. -/

namespace Sys2Proof.Machine

open Sys2Proof.Rules

/-! ### Binary32 words (R13) -/

/-- The sign as a factor. -/
def signFactor (neg : Bool) : ℚ := if neg then -1 else 1

/-- The magnitude of a finite binary32 word with biased exponent `ex` and fraction `fr` (R13). -/
def b32Magnitude (ex fr : Nat) : ℚ := if ex = 0 then fr * 2 ^ (-149 : Int) else (2 ^ 23 + fr : ℕ) * 2 ^ (ex - 150 : Int)

section
variable (neg : Bool) {ex fr : Nat} (hex : ex < 2 ^ 8) (hfr : fr < 2 ^ 23)
include hex hfr

theorem toNat_packB32 : (packB32 neg ex fr).toNat = (neg.toNat * 2 ^ 8 + ex) * 2 ^ 23 + fr := by
  rw [packB32, toNat_append_eq_add, toNat_append_eq_add, BitVec.toNat_ofNat, BitVec.toNat_ofNat, BitVec.toNat_ofBool,
    Nat.mod_eq_of_lt hex, Nat.mod_eq_of_lt hfr]

theorem getLsbD_packB32 : (packB32 neg ex fr).getLsbD 31 = neg := by
  have value := toNat_packB32 neg hex hfr
  have bit31 : ((packB32 neg ex fr).getLsbD 31).toNat = neg.toNat := by
    rw [BitVec.getLsbD, Nat.toNat_testBit, value]
    have := Bool.toNat_lt neg
    omega
  exact Function.LeftInverse.injective Bool.ofNat_toNat bit31

theorem exponent_packB32 : ((packB32 neg ex fr).extractLsb' 23 8).toNat = ex := by
  rw [BitVec.extractLsb'_toNat, Nat.shiftRight_eq_div_pow, toNat_packB32 neg hex hfr]
  have := Bool.toNat_lt neg
  omega

theorem fraction_packB32 : ((packB32 neg ex fr).extractLsb' 0 23).toNat = fr := by
  rw [BitVec.extractLsb'_toNat, Nat.shiftRight_eq_div_pow, toNat_packB32 neg hex hfr]
  omega

theorem b32Value_packB32 : b32Value (packB32 neg ex fr) = signFactor neg * b32Magnitude ex fr := by
  simp only [b32Value, getLsbD_packB32 neg hex hfr, exponent_packB32 neg hex hfr, fraction_packB32 neg hex hfr,
    b32Magnitude, signFactor]
  split <;> ring

end

/-! ### Exactness of the conversion (R164) -/

/-- A number mant · 2^exp that binary32 holds exactly: neither below its last place nor above its range. -/
structure FitsB32 (mant : Nat) (exp : Int) : Prop where
  precision : mant < 2 ^ 24
  low : -149 ≤ exp
  high : mant ≠ 0 → (Nat.log2 mant : Int) + exp ≤ 127

/-- The word of a finite value, by the fields that R164 gives it. -/
abbrev ExactWord (neg : Bool) (mant : Nat) (exp : Int) : Prop :=
  ∃ ex fr, ex < 255 ∧ fr < 2 ^ 23 ∧ toB32 (.finite neg mant exp) = packB32 neg ex fr ∧
    b32Magnitude ex fr = mant * 2 ^ exp

theorem two_zpow_add (a b : Int) : (2 : ℚ) ^ (a + b) = 2 ^ a * 2 ^ b := zpow_add₀ two_ne_zero a b

section
variable (neg : Bool) {mant : Nat} {exp : Int} (fits : FitsB32 mant exp) (nonzero : mant ≠ 0)
include fits nonzero

/-- A result in the normal range: the leading 1 is implicit, the bits below it are the fraction. -/
theorem exactWord_normal (normal : -126 ≤ (Nat.log2 mant : Int) + exp) : ExactWord neg mant exp := by
  have high := fits.high nonzero
  have digits : Nat.log2 mant < 24 := (Nat.log2_lt nonzero).mpr fits.precision
  have split23 : 2 ^ 23 = 2 ^ Nat.log2 mant * 2 ^ (23 - Nat.log2 mant) := by
    rw [← pow_add]
    congr 1
    omega
  have lower : 2 ^ 23 ≤ mant * 2 ^ (23 - Nat.log2 mant) :=
    split23 ▸ Nat.mul_le_mul_right _ (Nat.log2_self_le nonzero)
  have upper : mant * 2 ^ (23 - Nat.log2 mant) < 2 * 2 ^ 23 := by
    rw [split23, ← mul_assoc, ← pow_succ']
    exact Nat.mul_lt_mul_of_pos_right Nat.lt_log2_self (Nat.two_pow_pos _)
  refine ⟨((Nat.log2 mant : Int) + exp + 127).toNat, mant * 2 ^ (23 - Nat.log2 mant) - 2 ^ 23, by omega, by omega,
    by rw [toB32, if_neg nonzero, if_pos normal], ?_⟩
  have exponent : ((((Nat.log2 mant : Int) + exp + 127).toNat : Nat) : Int) - 150 =
      exp + -((23 - Nat.log2 mant : Nat) : Int) := by omega
  have whole : 2 ^ 23 + (mant * 2 ^ (23 - Nat.log2 mant) - 2 ^ 23) = mant * 2 ^ (23 - Nat.log2 mant) := by omega
  rw [b32Magnitude, if_neg (by omega), exponent, whole, two_zpow_add, zpow_neg, zpow_natCast]
  push_cast
  field_simp

/-- A result below the normal range: the fraction counts units of 2^-149, which all of the number's bits are. -/
theorem exactWord_subnormal (subnormal : ¬ -126 ≤ (Nat.log2 mant : Int) + exp) : ExactWord neg mant exp := by
  have low := fits.low
  have bound : mant * 2 ^ (exp + 149).toNat < 2 ^ 23 :=
    calc mant * 2 ^ (exp + 149).toNat
        < 2 ^ (Nat.log2 mant + 1) * 2 ^ (exp + 149).toNat :=
          Nat.mul_lt_mul_of_pos_right Nat.lt_log2_self (Nat.two_pow_pos _)
      _ = 2 ^ (Nat.log2 mant + 1 + (exp + 149).toNat) := (pow_add ..).symm
      _ ≤ 2 ^ 23 := Nat.pow_le_pow_right (by decide) (by omega)
  refine ⟨0, mant * 2 ^ (exp + 149).toNat, by decide, bound, by rw [toB32, if_neg nonzero, if_neg subnormal], ?_⟩
  have exponent : exp = ((exp + 149).toNat : Int) + -149 := by omega
  rw [b32Magnitude, if_pos rfl]
  conv_rhs => rw [exponent, two_zpow_add, zpow_natCast]
  push_cast
  ring

end

theorem exactWord_of_fitsB32 (neg : Bool) {mant : Nat} {exp : Int} (fits : FitsB32 mant exp) :
    ExactWord neg mant exp := by
  by_cases zero : mant = 0
  · exact ⟨0, 0, by decide, by decide, by rw [toB32, if_pos zero], by simp [b32Magnitude, zero]⟩
  by_cases normal : -126 ≤ (Nat.log2 mant : Int) + exp
  · exact exactWord_normal neg fits zero normal
  · exact exactWord_subnormal neg fits zero normal

/-! ### The finite codes (R163) -/

/-- The integer significand of a finite code: R163's, times 2^M. -/
def finiteMant (f : BitVec 16) (c : Nat) : Nat := if expOf f c = 0 then mantOf f c else 2 ^ fmtM f + mantOf f c

/-- The exponent of that significand. -/
def finiteExp (f : BitVec 16) (c : Nat) : Int :=
  if expOf f c = 0 then 1 - (fmtBias f : Int) - fmtM f else (expOf f c : Int) - fmtBias f - fmtM f

section
variable {f : BitVec 16} {c : Nat}

theorem decodeValue_of_finiteCode (h : finiteCode f c) :
    decodeValue f c = .finite (decide (signOf f c = 1)) (finiteMant f c) (finiteExp f c) := by
  obtain ⟨notNan, notPos, notNeg⟩ := h
  have sign : (codeSign f c == 1) = decide (signOf f c = 1) := rfl
  rw [decodeValue, if_neg (mt (isNanCode_iff f c).mp notNan), if_neg (mt (isPosInfCode_iff f c).mp notPos),
    if_neg (mt (isNegInfCode_iff f c).mp notNeg), sign, codeExp_eq_expOf, codeMant_eq_mantOf, finiteMant, finiteExp]
  split <;> rfl

theorem finiteValue_eq (f : BitVec 16) (c : Nat) :
    finiteValue f c = signFactor (decide (signOf f c = 1)) * (finiteMant f c * 2 ^ finiteExp f c) := by
  simp only [finiteValue, finiteMant, finiteExp, signFactor, decide_eq_true_eq, fmtBias, fmtM]
  by_cases h : expOf f c = 0
  · simp only [h, if_true, mul_assoc]
  · simp only [h, if_false, mul_assoc]

/-- R161's bounds put every finite code inside binary32, subnormal ones included. -/
theorem fitsB32_of_legal (h : legal f) : FitsB32 (finiteMant f c) (finiteExp f c) := by
  obtain ⟨-, widths, bias⟩ := (fmtLegal_iff f).mp ((fmtLegal_iff_legal f).mpr h)
  have mantissa : mantOf f c < 2 ^ fmtM f := Nat.mod_lt _ (Nat.two_pow_pos _)
  have exponent : expOf f c < 2 ^ fmtE f := Nat.mod_lt _ (Nat.two_pow_pos _)
  have small : 2 ^ (fmtM f + 1) ≤ 2 ^ 8 := Nat.pow_le_pow_right (by decide) (by omega)
  have range : 2 ^ fmtE f ≤ 2 ^ 7 := Nat.pow_le_pow_right (by decide) (by omega)
  have double := pow_succ' 2 (fmtM f)
  by_cases subnormal : expOf f c = 0
  · rw [finiteMant, finiteExp, if_pos subnormal, if_pos subnormal]
    refine ⟨by omega, by omega, fun nonzero => ?_⟩
    have digits := (Nat.log2_lt nonzero).mpr mantissa
    omega
  · rw [finiteMant, finiteExp, if_neg subnormal, if_neg subnormal]
    refine ⟨by omega, by omega, fun nonzero => ?_⟩
    have digits : Nat.log2 (2 ^ fmtM f + mantOf f c) < fmtM f + 1 := (Nat.log2_lt nonzero).mpr (by omega)
    omega

theorem exactWord_of_finiteCode (h : legal f) (finite : finiteCode f c) :
    ∃ ex fr, ex < 255 ∧ fr < 2 ^ 23 ∧ toB32 (decodeValue f c) = packB32 (decide (signOf f c = 1)) ex fr ∧
      signFactor (decide (signOf f c = 1)) * b32Magnitude ex fr = finiteValue f c := by
  obtain ⟨ex, fr, hex, hfr, word, value⟩ := exactWord_of_fitsB32 (decide (signOf f c = 1)) (fitsB32_of_legal (c := c) h)
  exact ⟨ex, fr, hex, hfr, by rw [decodeValue_of_finiteCode finite, word], by rw [finiteValue_eq, value]⟩

theorem getLsbD_toB32_of_finiteCode (h : legal f) (finite : finiteCode f c) :
    (toB32 (decodeValue f c)).getLsbD 31 = decide (signOf f c = 1) := by
  obtain ⟨ex, fr, hex, hfr, word, -⟩ := exactWord_of_finiteCode h finite
  rw [word, getLsbD_packB32 _ (by omega) hfr]

theorem exponent_toB32_of_finiteCode (h : legal f) (finite : finiteCode f c) :
    (toB32 (decodeValue f c)).extractLsb' 23 8 ≠ 255#8 := by
  obtain ⟨ex, fr, hex, hfr, word, -⟩ := exactWord_of_finiteCode h finite
  intro full
  have value := exponent_packB32 (decide (signOf f c = 1)) (show ex < 2 ^ 8 by omega) hfr
  rw [← word, full] at value
  exact absurd value.symm (Nat.ne_of_lt hex)

end

/-- Settles O21: R161's bounds put every finite code where binary32 is exact. -/
theorem narrowDecodeIsExact : Obligations.NarrowDecodeIsExact := by
  intro f c h _ finite
  refine ⟨?_, getLsbD_toB32_of_finiteCode h finite, exponent_toB32_of_finiteCode h finite⟩
  obtain ⟨ex, fr, hex, hfr, word, value⟩ := exactWord_of_finiteCode h finite
  rw [word, b32Value_packB32 _ (by omega) hfr, value]

/-! ### The carve-out codes (R162) -/

section
variable {f : BitVec 16} {c : Nat}

theorem width_sub_one (f : BitVec 16) : width f - 1 = fmtE f + fmtM f := by
  rw [← codeWidth_eq_width, codeWidth]
  omega

theorem two_pow_width (f : BitVec 16) : 2 ^ width f = 2 * 2 ^ (fmtE f + fmtM f) := by
  rw [← pow_succ', ← width_sub_one, ← codeWidth_eq_width, codeWidth]
  congr 1
  omega

theorem signOf_eq_div (f : BitVec 16) (c : Nat) : signOf f c = c / 2 ^ (fmtE f + fmtM f) := rfl

theorem signOf_of_posInfCode (h : posInfCode f c) : signOf f c = 0 := by
  rcases h with ⟨-, sign, -, -⟩ | ⟨-, rfl⟩
  · exact sign
  · have pos := Nat.two_pow_pos (fmtE f + fmtM f)
    rw [width_sub_one, signOf_eq_div]
    exact Nat.div_eq_of_lt (by omega)

theorem signOf_of_negInfCode (h : negInfCode f c) : signOf f c = 1 := by
  rcases h with ⟨-, sign, -, -⟩ | ⟨-, rfl⟩
  · exact sign
  · have pos := Nat.two_pow_pos (fmtE f + fmtM f)
    rw [two_pow_width, signOf_eq_div]
    exact Nat.div_eq_of_lt_le (by omega) (by omega)

theorem not_posInfCode_of_negInfCode (h : negInfCode f c) : ¬ posInfCode f c := by
  intro h'
  have sign := signOf_of_posInfCode h'
  rw [signOf_of_negInfCode h] at sign
  contradiction

theorem not_nanCode_of_posInfCode (h : posInfCode f c) : ¬ nanCode f c := by
  have pos := Nat.two_pow_pos (width f - 1)
  rcases h with ⟨ieee, -, -, mant⟩ | ⟨p3109, rfl⟩
  · simp [nanCode, ieee, mant]
  · intro nan
    have same : 2 ^ (width f - 1) - 1 = 2 ^ (width f - 1) := by simpa [nanCode, p3109] using nan
    omega

/-- Under P3109 the NaN code and the -Inf code differ, for a legal code has at least 2 bits (R161). -/
theorem not_nanCode_of_negInfCode (legal : legal f) (h : negInfCode f c) : ¬ nanCode f c := by
  obtain ⟨hE, -⟩ := legal
  have atLeastTwo : 2 ^ 1 ≤ 2 ^ (fmtE f + fmtM f) := Nat.pow_le_pow_right (by decide) (hE.trans (Nat.le_add_right ..))
  rcases h with ⟨ieee, -, -, mant⟩ | ⟨p3109, rfl⟩
  · simp [nanCode, ieee, mant]
  · intro nan
    have same : 2 ^ width f - 1 = 2 ^ (width f - 1) := by simpa [nanCode, p3109] using nan
    rw [two_pow_width, width_sub_one] at same
    omega

/-! ### The special words and the class (R164, R165) -/

theorem toB32_of_nanCode (h : nanCode f c) : toB32 (decodeValue f c) = 0x7FC00000#32 := by
  rw [decodeValue, if_pos ((isNanCode_iff f c).mpr h), toB32]

theorem toB32_of_posInfCode (h : posInfCode f c) : toB32 (decodeValue f c) = 0x7F800000#32 := by
  rw [decodeValue, if_neg (mt (isNanCode_iff f c).mp (not_nanCode_of_posInfCode h)),
    if_pos ((isPosInfCode_iff f c).mpr h), toB32]

theorem toB32_of_negInfCode (legal : legal f) (h : negInfCode f c) : toB32 (decodeValue f c) = 0xFF800000#32 := by
  rw [decodeValue, if_neg (mt (isNanCode_iff f c).mp (not_nanCode_of_negInfCode legal h)),
    if_neg (mt (isPosInfCode_iff f c).mp (not_posInfCode_of_negInfCode h)), if_pos ((isNegInfCode_iff f c).mpr h), toB32]

/-- Each code is of one kind, and its kind fixes its class and its word; a finite code's word is no special one. -/
theorem code_cases (legal : legal f) :
    ((nanCode f c ∧ ¬ posInfCode f c ∧ ¬ negInfCode f c) ∧ codeClass f c = 2 ∧
      toB32 (decodeValue f c) = 0x7FC00000#32) ∨
    ((¬ nanCode f c ∧ posInfCode f c ∧ ¬ negInfCode f c) ∧ codeClass f c = 1 ∧
      toB32 (decodeValue f c) = 0x7F800000#32) ∨
    ((¬ nanCode f c ∧ ¬ posInfCode f c ∧ negInfCode f c) ∧ codeClass f c = 1 ∧
      toB32 (decodeValue f c) = 0xFF800000#32) ∨
    (finiteCode f c ∧ codeClass f c = 0 ∧ (toB32 (decodeValue f c)).extractLsb' 23 8 ≠ 255#8) := by
  rw [codeClass_eq_classOf, classOf]
  by_cases nan : nanCode f c
  · exact .inl ⟨⟨nan, fun h => not_nanCode_of_posInfCode h nan, fun h => not_nanCode_of_negInfCode legal h nan⟩,
      if_pos nan, toB32_of_nanCode nan⟩
  by_cases pos : posInfCode f c
  · exact .inr (.inl ⟨⟨nan, pos, fun h => not_posInfCode_of_negInfCode h pos⟩, by rw [if_neg nan, if_pos (.inl pos)],
      toB32_of_posInfCode pos⟩)
  by_cases neg : negInfCode f c
  · exact .inr (.inr (.inl ⟨⟨nan, pos, neg⟩, by rw [if_neg nan, if_pos (.inr neg)], toB32_of_negInfCode legal neg⟩))
  · have finite : finiteCode f c := ⟨nan, pos, neg⟩
    exact .inr (.inr (.inr ⟨finite, by rw [if_neg nan, if_neg (not_or.mpr ⟨pos, neg⟩)],
      exponent_toB32_of_finiteCode legal finite⟩))

theorem getLsbD_toB32_of_not_nanCode (legal : legal f) (notNan : ¬ nanCode f c) :
    (toB32 (decodeValue f c)).getLsbD 31 = decide (signOf f c = 1) := by
  by_cases pos : posInfCode f c
  · rw [toB32_of_posInfCode pos, signOf_of_posInfCode pos]
    rfl
  by_cases neg : negInfCode f c
  · rw [toB32_of_negInfCode legal neg, signOf_of_negInfCode neg]
    rfl
  · exact getLsbD_toB32_of_finiteCode legal ⟨notNan, pos, neg⟩

end

/-- Settles O22, by the kind of the code. -/
theorem classTellsSpecialWords : Obligations.ClassTellsSpecialWords := by
  intro f c legal _
  have sign : ¬ nanCode f c → _ := getLsbD_toB32_of_not_nanCode legal
  rcases code_cases (c := c) legal with ⟨⟨nan, pos, neg⟩, hclass, word⟩ | ⟨⟨nan, pos, neg⟩, hclass, word⟩ |
    ⟨⟨nan, pos, neg⟩, hclass, word⟩ | ⟨finite, hclass, exponent⟩
  case inr.inr.inr =>
    have notSpecial : ∀ w : Word, w.extractLsb' 23 8 = 255#8 → toB32 (decodeValue f c) ≠ w :=
      fun w hw heq => exponent (heq ▸ hw)
    obtain ⟨nan, pos, neg⟩ := finite
    refine ⟨?_, ?_, ?_, iff_of_false (notSpecial _ rfl) nan, iff_of_false (notSpecial _ rfl) pos,
      iff_of_false (notSpecial _ rfl) neg, sign⟩ <;> simp only [hclass, nan, pos, neg, finiteCode] <;> decide
  all_goals
    refine ⟨?_, ?_, ?_, ?_, ?_, ?_, sign⟩ <;> simp only [hclass, word, nan, pos, neg, finiteCode] <;> decide

end Sys2Proof.Machine
end
